-- ==== Sys2Proof/Word.lean ====
section
/-!
DEFINITION. The words of the machine: registers and samples are 32-bit patterns, `BYTEBUF` elements are bytes,
`BITBUF` elements are booleans (00_scope.md section 6.1). No arithmetic stands here.
-/

namespace Sys2Proof

/-- A 32-bit register or command word (10_state.md, every register is 32 bits). -/
abbrev Word := BitVec 32

/-- One element of `BYTEBUF` (20_memory.md R40). -/
abbrev Byte := BitVec 8

/-- A bit sequence, first transmitted bit first (20_memory.md R42(c)); `true` is 1. -/
abbrev Bits := List Bool

/-- The bit pattern of an IEEE 754 binary32 number (00_scope.md section 6.1). -/
abbrev F32 := BitVec 32

end Sys2Proof
end

