-- ==== Sys2Proof/Syntax.lean ====
section
/-!
DEFINITION. What the host can ask of the block: the thirty commands (30_encoding.md R62, one constructor a row of the
opcode table; no command word has operand fields, R60) and the host accesses (20_memory.md R41, R45, R46).
-/

namespace Sys2Proof

/-- The commands. -/
inductive Instr where
  | nop          -- NOP          0x00000000
  | reset        -- RESET        0x00000001
  | clrErr       -- CLRERR       0x00000002
  | bytes2Bits   -- BYTES2BITS   0x00000010
  | bits2BytesT  -- BITS2BYTES.T 0x00000011
  | bits2BytesS  -- BITS2BYTES.S 0x00000111
  | hamEnc       -- HAM.ENC      0x00000020
  | hamDec       -- HAM.DEC      0x00000021
  | rsEnc        -- RS.ENC       0x00000030
  | rsDec        -- RS.DEC       0x00000031
  | frmMarkS     -- FRM.MARK.S   0x00000040
  | frmMarkE     -- FRM.MARK.E   0x00000140
  | frmWrap      -- FRM.WRAP     0x00000041
  | frmStripL    -- FRM.STRIPL   0x00000042
  | frmStripT    -- FRM.STRIPT   0x00000043
  | frmUnwrap    -- FRM.UNWRAP   0x00000044
  | fskMod       -- FSK.MOD      0x00000050
  | qpskMod      -- QPSK.MOD     0x00000150
  | tbMod        -- TB.MOD       0x00000250
  | fskDem       -- FSK.DEM      0x00000051
  | qpskDem      -- QPSK.DEM     0x00000151
  | tbDem        -- TB.DEM       0x00000251
  | fskDecode    -- FSK.DECODE   0x00000052
  | qpskDecode   -- QPSK.DECODE  0x00000152
  | tbDecode     -- TB.DECODE    0x00000252
  | goertzel     -- GOERTZEL     0x00000060
  | fskSync      -- FSK.SYNC     0x00000070
  | qpskSync     -- QPSK.SYNC    0x00000170
  | tbSync       -- TB.SYNC      0x00000270
  | noiseAdd     -- NOISE.ADD    0x00000080
deriving DecidableEq, Repr

/-- A command word cut into its fields (R60). -/
structure CmdFields where
  opcode : BitVec 8
  arg : BitVec 8
  reserved : BitVec 16
deriving DecidableEq, Repr

/-- The modulation schemes with their codes 0, 1, 2 (30_encoding.md R63). -/
inductive Scheme where
  | fsk
  | qpsk
  | tb
deriving DecidableEq, Repr

/-- The two frame markers, codes 0 and 1 (43_framing.md R115). -/
inductive Marker where
  | start
  | finish
deriving DecidableEq, Repr

/-- The three data buffers (20_memory.md R40). -/
inductive BufId where
  | byte
  | bit
  | samp
deriving DecidableEq, Repr

/-- One access of the host. -/
inductive HostAccess where
  /-- `HostWriteReg(off, w)` (R45); at offset 0 it issues the command `w`. -/
  | writeReg (off : Nat) (w : Word)
  /-- `HostReadReg(off)` (R45). -/
  | readReg (off : Nat)
  /-- `HostWriteBuf(BYTEBUF, i, v)` (R46). -/
  | writeByte (i : Nat) (v : Byte)
  /-- `HostWriteBuf(BITBUF, i, v)` (R46). -/
  | writeBit (i : Nat) (v : Bool)
  /-- `HostWriteBuf(SAMPBUF, i, v)` (R46). -/
  | writeSample (i : Nat) (v : F32)
  /-- `HostReadBuf(BUF, i)` (R46). -/
  | readBuf (b : BufId) (i : Nat)
  /-- A whole-element write at a byte offset from the block's base (R41); in the byte windows the low byte of `w`
  is the data. -/
  | busWrite (addr : Nat) (w : Word)
  /-- A whole-element read at a byte offset from the block's base (R41). -/
  | busRead (addr : Nat)
  /-- The hardware reset input (70_reset_and_hazards.md R210). -/
  | hardReset
deriving DecidableEq, Repr

end Sys2Proof
end

