-- ==== Sys2Proof/WellFormed.lean ====
section
/-!
DEFINITION. What is well formed before any meaning is asked for. A command has no operand fields, so every
constructor of `Instr` is well formed; a command *word* is checked on its fields (30_encoding.md R60, R62, R64), and
a host access on its alignment (20_memory.md R44, R49).
-/

namespace Sys2Proof

/-- Bits 31:16 of a command word are 0 (R60). -/
def CmdFields.reservedOk (f : CmdFields) : Bool := f.reserved == 0

/-- How many `arg` values R62 lists for an opcode: they are 0 .. that number less one; 0 for an opcode not listed. -/
def CmdFields.argCount (opcode : BitVec 8) : Nat :=
  if opcode = 0x50 ∨ opcode = 0x51 ∨ opcode = 0x52 ∨ opcode = 0x70 then 3
  else if opcode = 0x11 ∨ opcode = 0x40 then 2
  else if opcode = 0x00 ∨ opcode = 0x01 ∨ opcode = 0x02 ∨ opcode = 0x10 ∨ opcode = 0x20 ∨ opcode = 0x21
      ∨ opcode = 0x30 ∨ opcode = 0x31 ∨ opcode = 0x41 ∨ opcode = 0x42 ∨ opcode = 0x43 ∨ opcode = 0x44
      ∨ opcode = 0x60 ∨ opcode = 0x80 then 1
  else 0

/-- The opcode is one of R62's. -/
def CmdFields.opcodeOk (f : CmdFields) : Bool := decide (0 < CmdFields.argCount f.opcode)

/-- The `arg` is listed for the opcode (R62, R64). -/
def CmdFields.argOk (f : CmdFields) : Bool := decide (f.arg.toNat < CmdFields.argCount f.opcode)

/-- A legal command word (R62: "a row of this table and bits 31:16 are 0"). -/
def CmdFields.wf (f : CmdFields) : Bool := f.reservedOk && f.opcodeOk && f.argOk

/-- A command has no operand to be ill formed: each constructor is one whole word (R60, R65). -/
def Instr.wf (_ : Instr) : Bool := true

/-- Registers end at offset 0x6B (20_memory.md R40, R56). -/
def regSpaceEnd : Nat := 0x6C

/-- A whole-element, aligned access (R44, R49; 93_implementation_defined.md U2): a register and a `SAMPBUF` element are
reached at a multiple of 4. Unassigned offsets are not misaligned. -/
def HostAccess.wf : HostAccess → Bool
  | .writeReg off _ | .readReg off => decide (regSpaceEnd ≤ off) || decide (off % 4 = 0)
  | .busWrite addr _ | .busRead addr =>
    (decide (regSpaceEnd ≤ addr) && (decide (addr < 0x1000000) || decide (0x2000000 ≤ addr))) || decide (addr % 4 = 0)
  | .writeByte _ _ | .writeBit _ _ | .writeSample _ _ | .readBuf _ _ | .hardReset => true

end Sys2Proof
end

