-- ==== Sys2Proof/Decode.lean ====
section
/-!
DEFINITION. Decoding a command word (30_encoding.md R60 to R65), total on every 32-bit word and rejecting by name, and
after it the encoder, written from the same table (R62).
-/

namespace Sys2Proof

/-- Why a word is no command (R64). Each raises `ERR_ILLEGAL_CMD`; safe, since the spec names the fault. -/
inductive DecodeError where
  /-- a nonzero bit in 31:16 -/
  | reservedBits
  /-- an opcode R62 does not list -/
  | unlistedOpcode
  /-- a listed opcode with an `arg` not listed for it -/
  | unlistedArg
deriving DecidableEq, Repr

/-- Cut a word into its fields (R60). -/
def fieldsOf (w : Word) : CmdFields where
  opcode := w.extractLsb' 0 8
  arg := w.extractLsb' 8 8
  reserved := w.extractLsb' 16 16

/-- The rows of R62 as a function of (`opcode`, `arg`). -/
def decodeFields (opcode arg : Nat) : Except DecodeError Instr :=
  match opcode, arg with
  | 0x00, 0 => .ok .nop
  | 0x01, 0 => .ok .reset
  | 0x02, 0 => .ok .clrErr
  | 0x10, 0 => .ok .bytes2Bits
  | 0x11, 0 => .ok .bits2BytesT
  | 0x11, 1 => .ok .bits2BytesS
  | 0x20, 0 => .ok .hamEnc
  | 0x21, 0 => .ok .hamDec
  | 0x30, 0 => .ok .rsEnc
  | 0x31, 0 => .ok .rsDec
  | 0x40, 0 => .ok .frmMarkS
  | 0x40, 1 => .ok .frmMarkE
  | 0x41, 0 => .ok .frmWrap
  | 0x42, 0 => .ok .frmStripL
  | 0x43, 0 => .ok .frmStripT
  | 0x44, 0 => .ok .frmUnwrap
  | 0x50, 0 => .ok .fskMod
  | 0x50, 1 => .ok .qpskMod
  | 0x50, 2 => .ok .tbMod
  | 0x51, 0 => .ok .fskDem
  | 0x51, 1 => .ok .qpskDem
  | 0x51, 2 => .ok .tbDem
  | 0x52, 0 => .ok .fskDecode
  | 0x52, 1 => .ok .qpskDecode
  | 0x52, 2 => .ok .tbDecode
  | 0x60, 0 => .ok .goertzel
  | 0x70, 0 => .ok .fskSync
  | 0x70, 1 => .ok .qpskSync
  | 0x70, 2 => .ok .tbSync
  | 0x80, 0 => .ok .noiseAdd
  | 0x00, _ => .error .unlistedArg
  | 0x01, _ => .error .unlistedArg
  | 0x02, _ => .error .unlistedArg
  | 0x10, _ => .error .unlistedArg
  | 0x11, _ => .error .unlistedArg
  | 0x20, _ => .error .unlistedArg
  | 0x21, _ => .error .unlistedArg
  | 0x30, _ => .error .unlistedArg
  | 0x31, _ => .error .unlistedArg
  | 0x40, _ => .error .unlistedArg
  | 0x41, _ => .error .unlistedArg
  | 0x42, _ => .error .unlistedArg
  | 0x43, _ => .error .unlistedArg
  | 0x44, _ => .error .unlistedArg
  | 0x50, _ => .error .unlistedArg
  | 0x51, _ => .error .unlistedArg
  | 0x52, _ => .error .unlistedArg
  | 0x60, _ => .error .unlistedArg
  | 0x70, _ => .error .unlistedArg
  | 0x80, _ => .error .unlistedArg
  | _, _ => .error .unlistedOpcode

/-- The command a word is, or why it is none (R62, R64). -/
def decode (w : Word) : Except DecodeError Instr :=
  if (fieldsOf w).reservedOk then decodeFields (fieldsOf w).opcode.toNat (fieldsOf w).arg.toNat
  else .error .reservedBits

/-! ## The encoder -/

/-- The `opcode` of a command (R62). -/
def Instr.opcode : Instr → BitVec 8
  | .nop => 0x00
  | .reset => 0x01
  | .clrErr => 0x02
  | .bytes2Bits => 0x10
  | .bits2BytesT | .bits2BytesS => 0x11
  | .hamEnc => 0x20
  | .hamDec => 0x21
  | .rsEnc => 0x30
  | .rsDec => 0x31
  | .frmMarkS | .frmMarkE => 0x40
  | .frmWrap => 0x41
  | .frmStripL => 0x42
  | .frmStripT => 0x43
  | .frmUnwrap => 0x44
  | .fskMod | .qpskMod | .tbMod => 0x50
  | .fskDem | .qpskDem | .tbDem => 0x51
  | .fskDecode | .qpskDecode | .tbDecode => 0x52
  | .goertzel => 0x60
  | .fskSync | .qpskSync | .tbSync => 0x70
  | .noiseAdd => 0x80

/-- The `arg` of a command (R62). -/
def Instr.arg : Instr → BitVec 8
  | .bits2BytesS | .frmMarkE | .qpskMod | .qpskDem | .qpskDecode | .qpskSync => 1
  | .tbMod | .tbDem | .tbDecode | .tbSync => 2
  | .nop | .reset | .clrErr | .bytes2Bits | .bits2BytesT | .hamEnc | .hamDec | .rsEnc
  | .rsDec | .frmMarkS | .frmWrap | .frmStripL | .frmStripT | .frmUnwrap | .fskMod | .fskDem
  | .fskDecode | .goertzel | .fskSync | .noiseAdd => 0

/-- The word of a command: `arg` in bits 15:8, `opcode` in bits 7:0, bits 31:16 zero (R60). -/
def encode (i : Instr) : Word := (0 : BitVec 16) ++ (i.arg ++ i.opcode)

/-- The command of the table word whose `nbits` bits are `w`: command words are 32 bits and are written to `CMD`
whole, so bit 0 of the number is bit 0 of the word (R60, R65). Nothing longer is a command. -/
def decodeTableWord (nbits w : Nat) : Option Instr :=
  if w % 2 ^ nbits < 2 ^ 32 then
    match decode (BitVec.ofNat 32 (w % 2 ^ nbits)) with
    | .ok i => some i
    | .error _ => none
  else none

end Sys2Proof
end

