-- ==== Sys2Proof/Machine/Float.lean ====
section
/-!
DEFINITION. What a binary32 pattern stands for (30_encoding.md R66) and the tests the commands make on one
(10_state.md R18, R19, R26, R27; 20_memory.md R54). Every finite binary32 value is a whole number of units of
2^-149, so the tests are comparisons of integers and nothing is rounded.
-/

namespace Sys2Proof

/-- The sign bit, bit 31 (R66). -/
def F32.sign (x : F32) : Bool := x.getLsbD 31

/-- The biased exponent `e`, bits 30:23 (R66). -/
def F32.exponent (x : F32) : Nat := (x.extractLsb' 23 8).toNat

/-- The fraction `m`, bits 22:0 (R66). -/
def F32.fraction (x : F32) : Nat := (x.extractLsb' 0 23).toNat

/-- Not an infinity and not a NaN: `e` is not 255 (R66). -/
def F32.isFinite (x : F32) : Bool := F32.exponent x != 255

/-- The magnitude in units of 2^-149: `m` when `e = 0`, otherwise `(2^23 + m) * 2^(e-1)`, which is R66's
`(2^23 + m) * 2^(e-150)` scaled by 2^149. -/
def F32.magnitude (x : F32) : Nat :=
  if F32.exponent x = 0 then F32.fraction x
  else (2 ^ 23 + F32.fraction x) * 2 ^ (F32.exponent x - 1)

/-- The value of a finite pattern in units of 2^-149 (R66), a signed integer. -/
def F32.units (x : F32) : Int :=
  if F32.sign x then -(F32.magnitude x : Int) else (F32.magnitude x : Int)

/-- `val`: the value of a finite pattern as an exact rational (R66; 00_scope.md section 6.1). -/
def F32.rat (x : F32) : ℚ := mkRat (F32.units x) (2 ^ 149)

/-- A `Sample`: finite, with a value in [-1, 1] (20_memory.md R54); 1 is 2^149 units. Both zeros are samples. -/
def F32.isSample (x : F32) : Bool := F32.isFinite x && decide ((F32.units x).natAbs ≤ 2 ^ 149)

/-- Finite and greater than +0.0: what a tone frequency must be (10_state.md R26, R27). -/
def F32.isPositive (x : F32) : Bool := F32.isFinite x && decide (0 < F32.units x)

/-- Finite and at least +0.0: what `FREQ` and `LEVEL` must be; -0.0 has value 0 and passes (10_state.md R18, R19). -/
def F32.isNonneg (x : F32) : Bool := F32.isFinite x && decide (0 ≤ F32.units x)

/-- Equal as real values (10_state.md R27, "pairwise different as real values"). -/
def F32.sameValue (x y : F32) : Bool := decide (F32.units x = F32.units y)

/-- The pattern of +0.0. -/
def F32.zero : F32 := 0x00000000

/-- The pattern of 1.0, the tone amplitude `TONE_AMPL` and the upper end of the sample range. -/
def F32.one : F32 := 0x3F800000

/-- The pattern of -1.0, the lower end of the sample range. -/
def F32.negOne : F32 := 0xBF800000

/-- The pattern with its sign bit inverted: the exact negative of a finite value. -/
def F32.negate (x : F32) : F32 := x ^^^ 0x80000000

end Sys2Proof
end

