-- ==== Sys2Proof/Config.lean ====
section
/-!
DEFINITION. What an implementation fixes and what stays open: the parameters of 00_scope.md section 5, the
arithmetic `NUMERICS` (10_state.md R29), the draws of the random source (47_noise_and_system.md R172), the
ToneBlock codec (44_modulators.md R141, R142) and the value of a buffer element that nothing has written
(93_implementation_defined.md U1). A free value is an opaque constant: no proof can see what it is.
-/

namespace Sys2Proof

/-- `ROUND_TIE`: what `round` does at an exact half (45_goertzel.md R151, D24). -/
inductive RoundTie where
  | halfEven
  | halfAway
deriving DecidableEq, Repr

/-- The OPEN parameters that are plain data (70_reset_and_hazards.md R212: fixed properties of an implementation,
changed by no reset and written by no register). State holds one, so that a statement about every state is a
statement about every implementation. DESIGN CHOICE (log 3). -/
structure Params where
  capBytes : Nat
  capBits : Nat
  capSamples : Nat
  tbPresent : Bool
  roundTie : RoundTie
deriving DecidableEq, Repr

/-- The ranges of the capacities (92_eei_decisions.md section 6; 20_memory.md R40). -/
def Params.ok (p : Params) : Bool :=
  decide (1 ≤ p.capBytes) && decide (p.capBytes ≤ 2 ^ 20) && decide (1 ≤ p.capBits) && decide (p.capBits ≤ 2 ^ 20)
    && decide (1 ≤ p.capSamples) && decide (p.capSamples ≤ 2 ^ 22)

namespace Config

/-- The parameters State.reset is given: the largest capacities, a codec attached, ties to even. DESIGN CHOICE
(log 3), unsafe: no statement rests on it. -/
def initialParams : Params where
  capBytes := 2 ^ 20
  capBits := 2 ^ 20
  capSamples := 2 ^ 22
  tbPresent := true
  roundTie := .halfEven

/-! ## Reed–Solomon parameters, the spec's defaults (42_reed_solomon.md R101, R102; D14, D17; log 9) -/

/-- `RS_PRIM_POLY`. -/
def rsPrimPoly : Nat := 0x11D

/-- `RS_ALPHA`. -/
def rsAlpha : Byte := 0x02

/-- `RS_FCR`, the exponent of the generator's first root. -/
def rsFcr : Nat := 0

/-- `RS_NSYM`, the number of check bytes. -/
def rsNsym : Nat := 8

/-- `RS_MAX_MSG`, the longest message. -/
def rsMaxMsg : Nat := 245

/-! ## Unwritten buffer elements (93 U1; 70_reset_and_hazards.md R211; log 8)

The value of the element at an index that nothing has written, in a given epoch of its buffer. -/

opaque freeByte : Nat → Nat → Byte

opaque freeBit : Nat → Nat → Bool

opaque freeSample : Nat → Nat → F32

end Config

/-! ## NUMERICS -/

/-- `NUMERICS`: the operations of the tone and detector datapaths, over a number format `R` (10_state.md R29). The
rules' formulas are written over these, in the order the pseudocode has them. `val` reads a sample, `ofNat` a
whole number, `div` is the quotient the pseudocode writes as a fraction (log 5). -/
structure Arith (R : Type) where
  val : F32 → R
  ofNat : Nat → R
  toF32 : R → F32
  cos2pi : R → R
  sin2pi : R → R
  sqrt : R → R
  add : R → R → R
  sub : R → R → R
  mul : R → R → R
  div : R → R → R
  gt : R → R → Bool
  roundInt : RoundTie → R → Nat

/-- `k` is the natural nearest to `x`, an exact half going as `ROUND_TIE` says (45_goertzel.md R151). -/
def RoundsTo (tie : RoundTie) (x : ℝ) (k : ℕ) : Prop :=
  |x - (k : ℝ)| ≤ 1 / 2 ∧
    (|x - (k : ℝ)| = 1 / 2 →
      match tie with
      | .halfEven => Even k
      | .halfAway => x < (k : ℝ))

/-- The laws of `toF32 : Real -> F32` (10_state.md R29): a real in [-1, 1] is stored as a sample, 0 as +0.0, and a real
that is a binary32 value as that value. -/
structure StoreLaws (store : ℝ → F32) : Prop where
  sample : ∀ r : ℝ, -1 ≤ r → r ≤ 1 → F32.isSample (store r) = true
  zero : store 0 = F32.zero
  exact_value : ∀ x : F32, F32.isFinite x = true →
    F32.isFinite (store (F32.rat x)) = true ∧ F32.rat (store (F32.rat x)) = F32.rat x

/-- What every `NUMERICS` must satisfy, where `real` says which real number a datum of the format stands for and `store`
is its `toF32` (10_state.md R29; 45_goertzel.md R151 for `roundInt`, R157(a) for `sqrt`; 44_modulators.md R133 for the
range of a tone; log 4, 6). -/
structure Arith.Lawful {R : Type} (A : Arith R) (real : R → ℝ) (store : ℝ → F32) : Prop where
  val_real : ∀ x : F32, F32.isFinite x = true → real (A.val x) = (F32.rat x : ℝ)
  gt_iff : ∀ a b : R, A.gt a b = true ↔ real b < real a
  toF32_store : ∀ r : R, A.toF32 r = store (real r)
  roundInt_nearest : ∀ (tie : RoundTie) (r : R), 0 ≤ real r → RoundsTo tie (real r) (A.roundInt tie r)
  sqrt_nonneg : ∀ r : R, 0 ≤ real (A.sqrt r)
  tone_range : ∀ r : R,
    -1 ≤ real (A.mul (A.val F32.one) (A.sin2pi r)) ∧ real (A.mul (A.val F32.one) (A.sin2pi r)) ≤ 1

/-- The real numbers of the noise injector (47_noise_and_system.md R170, R172): reading a sample, the sum, the order and
the storing of a result. `NUMERICS` replaces operations of 44_modulators.md and 45_goertzel.md only (10_state.md R29), so
these are exact (log 22). -/
structure RealOps (D : Type) where
  val : F32 → D
  add : D → D → D
  gt : D → D → Bool
  toF32 : D → F32

/-- The operations are those of the real numbers, and results are stored by `store`. -/
structure RealOps.Lawful {D : Type} (X : RealOps D) (real : D → ℝ) (store : ℝ → F32) : Prop where
  val_real : ∀ x : F32, F32.isFinite x = true → real (X.val x) = (F32.rat x : ℝ)
  add_real : ∀ a b : D, real (X.add a b) = real a + real b
  gt_iff : ∀ a b : D, X.gt a b = true ↔ real b < real a
  toF32_store : ∀ d : D, X.toF32 d = store (real d)

/-- A number format with its operations, the reals that draws are taken from, and the one `toF32` both are stored by. -/
structure Numerics : Type 1 where
  Num : Type
  arith : Arith Num
  real : Num → ℝ
  Draw : Type
  reals : RealOps Draw
  drawReal : Draw → ℝ
  lawful : ∃ store : ℝ → F32, StoreLaws store ∧ arith.Lawful real store ∧ reals.Lawful drawReal store

/-! A `Numerics` exists: the rationals, with `toF32` by search. It is only the evidence the opaque constant below
asks for that its type has a member; nothing in the model evaluates it. -/

/-- The pattern that stands for `q`, if some finite pattern does. -/
def Numerics.patternOf (q : ℚ) : Option F32 :=
  (List.range (2 ^ 32)).findSome? fun n =>
    if F32.isFinite (BitVec.ofNat 32 n) && decide (F32.rat (BitVec.ofNat 32 n) = q) then
      some (BitVec.ofNat 32 n) else none

theorem Numerics.patternOf_some {q : ℚ} {x : F32} (h : Numerics.patternOf q = some x) :
    F32.isFinite x = true ∧ F32.rat x = q := by
  obtain ⟨n, -, hn⟩ := List.exists_of_findSome?_eq_some h
  split at hn
  · simp_all
  · cases hn

theorem Numerics.patternOf_isSome {q : ℚ} {x : F32} (hf : F32.isFinite x = true) (hx : F32.rat x = q) :
    (Numerics.patternOf q).isSome = true := by
  rw [Numerics.patternOf, List.findSome?_isSome_iff]
  refine ⟨x.toNat, List.mem_range.2 x.isLt, ?_⟩
  simp [hf, hx]

/-- `round` on the rationals. -/
def Numerics.roundRat (tie : RoundTie) (q : ℚ) : Nat :=
  let k := ⌊q⌋₊
  if q - k < 1 / 2 then k
  else if 1 / 2 < q - k then k + 1
  else match tie with
    | .halfEven => if k % 2 = 0 then k else k + 1
    | .halfAway => k + 1

theorem Numerics.roundRat_nearest (tie : RoundTie) (q : ℚ) (hq : 0 ≤ (q : ℝ)) :
    RoundsTo tie (q : ℝ) (Numerics.roundRat tie q) := by
  have hq' : (0 : ℚ) ≤ q := by exact_mod_cast hq
  have h1 : ((⌊q⌋₊ : ℚ)) ≤ q := Nat.floor_le hq'
  have h2 : q < ⌊q⌋₊ + 1 := Nat.lt_floor_add_one q
  have key : ∀ k : ℕ, RoundsTo tie (q : ℝ) k ↔ (|q - (k : ℚ)| ≤ 1 / 2 ∧ (|q - (k : ℚ)| = 1 / 2 →
      match tie with
      | .halfEven => Even k
      | .halfAway => q < (k : ℚ))) := by
    intro k
    have e : |(q : ℝ) - (k : ℝ)| = ((|q - (k : ℚ)| : ℚ) : ℝ) := by push_cast; rfl
    have c : ((1 : ℝ) / 2) = ((1 / 2 : ℚ) : ℝ) := by norm_num
    unfold RoundsTo
    rw [e, c, Rat.cast_le, Rat.cast_inj]
    cases tie <;> simp
  rw [key]
  unfold Numerics.roundRat
  simp only
  generalize ⌊q⌋₊ = k at *
  split
  · rw [abs_of_nonneg (by linarith)]
    exact ⟨by linarith, fun h => by linarith⟩
  · split
    · push_cast
      rw [abs_of_nonpos (by linarith)]
      exact ⟨by linarith, fun h => by linarith⟩
    · have hk : q - k = 1 / 2 := by linarith
      cases tie
      · simp only
        split
        · rename_i he
          rw [hk]
          exact ⟨by norm_num, fun _ => Nat.even_iff.2 he⟩
        · rename_i he
          push_cast
          rw [abs_of_nonpos (by linarith)]
          exact ⟨by linarith, fun _ => by rw [Nat.even_add_one, Nat.even_iff]; exact he⟩
      · simp only
        push_cast
        rw [abs_of_nonpos (by linarith)]
        exact ⟨by linarith, fun _ => by linarith⟩

/-- Storing a rational. -/
def Numerics.ratToF32 (q : ℚ) : F32 := if q = 0 then F32.zero else (Numerics.patternOf q).getD F32.zero

/-- The rationals as a number format. -/
def Numerics.ratArith : Arith ℚ where
  val := F32.rat
  ofNat := fun n => (n : ℚ)
  toF32 := Numerics.ratToF32
  cos2pi := fun _ => 0
  sin2pi := fun _ => 0
  sqrt := fun _ => 0
  add := fun a b => a + b
  sub := fun a b => a - b
  mul := fun a b => a * b
  div := fun a b => a / b
  gt := fun a b => decide (b < a)
  roundInt := Numerics.roundRat

theorem F32.isSample_of_rat_le {x : F32} (hf : F32.isFinite x = true) (h1 : -1 ≤ F32.rat x) (h2 : F32.rat x ≤ 1) :
    F32.isSample x = true := by
  have e : F32.rat x = (F32.units x : ℚ) / (2 ^ 149 : ℚ) := by
    rw [F32.rat, Rat.mkRat_eq_div]
    norm_num
  have hp : (0 : ℚ) < 2 ^ 149 := by positivity
  rw [e, div_le_one hp] at h2
  rw [e, le_div_iff₀ hp] at h1
  have h2' : F32.units x ≤ 2 ^ 149 := by exact_mod_cast h2
  have h1' : -(2 ^ 149) ≤ F32.units x := by
    have : (-1 : ℚ) * 2 ^ 149 = ((-(2 ^ 149) : ℤ) : ℚ) := by norm_num
    rw [this] at h1
    exact_mod_cast h1
  simp only [F32.isSample, hf, Bool.true_and, decide_eq_true_eq]
  omega

/-- The rationals as the numbers of the noise injector. -/
def Numerics.ratReals : RealOps ℚ where
  val := F32.rat
  add := fun a b => a + b
  gt := fun a b => decide (b < a)
  toF32 := Numerics.ratToF32

theorem Numerics.ratToF32_sample (q : ℚ) (h1 : -1 ≤ q) (h2 : q ≤ 1) : F32.isSample (Numerics.ratToF32 q) = true := by
  unfold Numerics.ratToF32
  split
  · decide
  · cases h : Numerics.patternOf q with
    | none => decide
    | some x =>
      obtain ⟨hf, rfl⟩ := Numerics.patternOf_some h
      exact F32.isSample_of_rat_le hf h1 h2

theorem Numerics.ratToF32_exact (x : F32) (hf : F32.isFinite x = true) :
    F32.isFinite (Numerics.ratToF32 (F32.rat x)) = true ∧ F32.rat (Numerics.ratToF32 (F32.rat x)) = F32.rat x := by
  unfold Numerics.ratToF32
  split
  · rename_i h0
    rw [h0]
    decide
  · obtain ⟨y, hy⟩ := Option.isSome_iff_exists.1 (Numerics.patternOf_isSome hf rfl)
    rw [hy]
    exact Numerics.patternOf_some hy

/-- The rationals' `toF32` is one of the reals' that meets the laws. -/
theorem Numerics.ratStore_exists :
    ∃ store : ℝ → F32, StoreLaws store ∧ ∀ q : ℚ, store (q : ℝ) = Numerics.ratToF32 q := by
  classical
  let store (r : ℝ) : F32 := if h : ∃ q : ℚ, (q : ℝ) = r then Numerics.ratToF32 h.choose else F32.zero
  have key : ∀ q : ℚ, store (q : ℝ) = Numerics.ratToF32 q := by
    intro q
    have h : ∃ p : ℚ, (p : ℝ) = (q : ℝ) := ⟨q, rfl⟩
    have e : h.choose = q := by exact_mod_cast h.choose_spec
    simp only [store, h, dif_pos, e]
  refine ⟨store, ⟨fun r h1 h2 => ?_, ?_, fun x hf => ?_⟩, key⟩
  · by_cases h : ∃ q : ℚ, (q : ℝ) = r
    · obtain ⟨q, rfl⟩ := h
      rw [key]
      exact Numerics.ratToF32_sample q (by exact_mod_cast h1) (by exact_mod_cast h2)
    · simp only [store, h, dif_neg, not_false_eq_true]
      decide
  · have := key 0
    rw [Rat.cast_zero] at this
    rw [this]
    rfl
  · rw [key]
    exact Numerics.ratToF32_exact x hf

theorem Numerics.rat_lawful : ∃ store : ℝ → F32, StoreLaws store ∧
    Numerics.ratArith.Lawful (fun q : ℚ => (q : ℝ)) store ∧ Numerics.ratReals.Lawful (fun q : ℚ => (q : ℝ)) store := by
  obtain ⟨store, hs, key⟩ := Numerics.ratStore_exists
  refine ⟨store, hs, ⟨fun _ _ => rfl, fun a b => ?_, fun q => (key q).symm, fun tie r h => ?_, fun r => ?_, fun r => ?_⟩,
    ⟨fun _ _ => rfl, fun a b => ?_, fun a b => ?_, fun q => (key q).symm⟩⟩
  · simp [Numerics.ratArith]
  · exact Numerics.roundRat_nearest tie r h
  · simp [Numerics.ratArith]
  · simp [Numerics.ratArith]
  · simp [Numerics.ratReals]
  · simp [Numerics.ratReals]

namespace Config

/-- The open `NUMERICS`, given that its type has a member. -/
opaque numericsOf [Inhabited Numerics] : Numerics

/-- `NUMERICS`: some number format with some operations under the laws above; which one is not fixed (10_state.md R29,
D25; log 4). -/
def numerics : Numerics :=
  @numericsOf ⟨⟨ℚ, Numerics.ratArith, fun q => (q : ℝ), ℚ, Numerics.ratReals, fun q => (q : ℝ), Numerics.rat_lawful⟩⟩

/-- The draws of the random source, given that there is a number to draw. -/
opaque drawOf [Inhabited numerics.Draw] : Nat → numerics.Draw

/-- The answer of the random source to the `n`-th draw: any number (47_noise_and_system.md R172, D28; log 7). -/
def draw : Nat → numerics.Draw := @drawOf ⟨numerics.reals.val F32.zero⟩

/-- `TB_MOD(b, Fs, SR)`: what the attached codec answers; `none` when it is no sequence of sample words at all
(44_modulators.md R141; log 12). -/
opaque tbMod : Bits → Nat → Nat → Option (List F32)

/-- `TB_DEM(wv, Fs, SR, off)`: what the attached codec answers; `none` when it is no bit sequence
(44_modulators.md R142; 60_exceptions.md R185; log 12). -/
opaque tbDem : List F32 → Nat → Nat → Nat → Option Bits

end Config

/-- Everything the model takes as an argument and not as data: the arithmetic, the numbers and the draws of the noise
injector, and the external codec (00_scope.md R3). `draw` is the sequence of draws of one command, an argument of it and
no part of the state (47_noise_and_system.md R172). The operations are written over any `Env`; the machine uses
`State.env`. -/
structure Env (R D : Type) where
  arith : Arith R
  reals : RealOps D
  draw : Nat → D
  tbMod : Bits → Nat → Nat → Option (List F32)
  tbDem : List F32 → Nat → Nat → Nat → Option Bits

/-- The arguments this machine is built with, for a command whose first draw is draw number `k` of the random source. -/
def Config.env (k : Nat) : Env Config.numerics.Num Config.numerics.Draw where
  arith := Config.numerics.arith
  reals := Config.numerics.reals
  draw := fun i => Config.draw (k + i)
  tbMod := Config.tbMod
  tbDem := Config.tbDem

end Sys2Proof
end

