-- ==== Sys2Proof/Machine/State.lean ====
section
/-!
DEFINITION. The state of the block, `Block`: the registers and the three buffers of 10_state.md R10 and nothing else
(`CMD` stores nothing, R13, R45; `CAPS` is computed, R23). The machine's `State` pairs it with `Outside`, the agents and
parameters outside the block that the spec hands to a model as arguments (00_scope.md R3), because the host's form of a
step has one argument. And the state after reset (R35).
-/

namespace Sys2Proof.Machine

/-- What stops the machine. Nothing does: every fault of the block is a state with `STATUS.ERR` set
(60_exceptions.md R195, R196), so no constructor is needed and none is raised; safe (log 17). -/
inductive Fault where
deriving DecidableEq, Repr

/-- Why a step has no meaning. -/
inductive Refusal where
  /-- Raised by `exec`'s arms for an instruction without a meaning; no arm of this model raises it. Safe. -/
  | notModelled (mnemonic : String)
  /-- Raised by a host access to a register or a `SAMPBUF` element at an offset that is no multiple of 4: 93 U2,
  "refuse". No command raises it. Safe (log 14). -/
  | misalignedAccess (addr : Nat)
  /-- Raised by a host access other than a read of `STATUS` or a reset while `BUSY = 1`: 93 U3, "refuse". No command
  raises it and no run reaches such a state. Safe (log 15). -/
  | accessWhileBusy
deriving DecidableEq, Repr

/-- The fault causes, code 0 to 7 in this order (60_exceptions.md R185). -/
inductive ErrCode where
  | none
  | illegalCmd
  | config
  | emptyInput
  | length
  | capacity
  | sample
  | external
deriving DecidableEq, Repr

/-- `RSSTAT`: 0 not a Reed–Solomon decode, 1 `RS_OK`, 2 `RS_SHORT`, 3 `RS_FAIL` (10_state.md R20). -/
inductive RsStat where
  | none
  | ok
  | short
  | fail
deriving DecidableEq, Repr

/-- The fields of `STATUS` (10_state.md R20). -/
structure Status where
  busy : Bool
  done : Bool
  err : Bool
  empty : Bool
  found : Bool
  rsStat : RsStat
  decFail : Bool
  errCode : ErrCode
deriving DecidableEq, Repr

/-- `STATUS` with every field 0. -/
def Status.clear : Status where
  busy := false
  done := false
  err := false
  empty := false
  found := false
  rsStat := .none
  decFail := false
  errCode := .none

/-- A data buffer: the elements something has written, as (index, element) pairs with strictly rising indices. An
index that is not listed holds no value of the block's: it reads as any value (10_state.md R35; 93 U1; log 8). -/
structure Buf (α : Type) where
  cells : List (Nat × α)
deriving DecidableEq, Repr

/-- The complete architectural state of the block (R10): its registers and its three buffers, plus nothing. -/
structure Block where
  /-- `STATUS`, 0x04 (R20). -/
  status : Status
  /-- `ERRINFO`, 0x08 (R22). -/
  errInfo : Word
  /-- `CFG`, 0x10 (R24). -/
  cfg : Word
  /-- `SYMRATE`, 0x14 (R25). -/
  symRate : Word
  /-- `FSK_F0`, 0x18 (R26). -/
  fskF0 : F32
  /-- `FSK_F1`, 0x1C (R26). -/
  fskF1 : F32
  /-- `QPSK_BASE`, 0x20 (R27). -/
  qpskBase : F32
  /-- `QPSK_MULT0`, 0x24 (R27). -/
  qpskMult0 : F32
  /-- `QPSK_MULT1`, 0x28 (R27). -/
  qpskMult1 : F32
  /-- `QPSK_MULT2`, 0x2C (R27). -/
  qpskMult2 : F32
  /-- `QPSK_MULT3`, 0x30 (R27). -/
  qpskMult3 : F32
  /-- `PAD`, 0x34 (R28). -/
  pad : Word
  /-- `RATE`, 0x40 (R16). -/
  rate : Word
  /-- `OFFSET`, 0x44 (R17). -/
  offset : Word
  /-- `FREQ`, 0x48 (R18). -/
  freq : F32
  /-- `LEVEL`, 0x4C (R19). -/
  level : F32
  /-- `POWER`, 0x50 (R30). -/
  power : F32
  /-- `SYNCOFF`, 0x54 (R31). -/
  syncOff : Word
  /-- `SYNCCNT`, 0x58 (R31). -/
  syncCnt : Word
  /-- `BYTELEN`, 0x60 (R32). -/
  byteLen : Word
  /-- `BITLEN`, 0x64 (R32). -/
  bitLen : Word
  /-- `SAMPLEN`, 0x68 (R32). -/
  sampLen : Word
  /-- `BYTEBUF` (20_memory.md R40). -/
  byteBuf : Buf Byte
  /-- `BITBUF` (20_memory.md R40). -/
  bitBuf : Buf Bool
  /-- `SAMPBUF` (20_memory.md R40). -/
  sampBuf : Buf F32
deriving DecidableEq, Repr

/-- What is outside the block (00_scope.md R3; 10_state.md R34(c)): the arguments of a step that are plain data, and the
names of the free values it is given. No command's rule reads `host` or `reply`, and `draws` and the epochs are only the
indices at which the opaque draws and free elements are taken (log 21). -/
structure Outside where
  /-- The implementation's parameters (70_reset_and_hazards.md R212); nothing changes them (log 3). -/
  impl : Params
  /-- Which family of free values the unwritten elements of `BYTEBUF` read as (93 U1; log 8). -/
  byteEpoch : Nat
  /-- The same of `BITBUF`. -/
  bitEpoch : Nat
  /-- The same of `SAMPBUF`. -/
  sampEpoch : Nat
  /-- How many draws the random source has answered: the index of its next answer (R172; log 7). -/
  draws : Nat
  /-- The host accesses still to come, first first (log 1). -/
  host : List HostAccess
  /-- What the bus answered to the host's last read (log 2). -/
  reply : Word
deriving DecidableEq, Repr

/-- The state of the machine: the block, and what is outside it. -/
structure State extends Block, Outside
deriving DecidableEq, Repr

/-- The block after reset: every register at its value and no element written (10_state.md R35). -/
def Block.reset : Block where
  status := Status.clear
  errInfo := 0
  cfg := 0
  symRate := 0
  fskF0 := 0
  fskF1 := 0
  qpskBase := 0
  qpskMult0 := 0
  qpskMult1 := 0
  qpskMult2 := 0
  qpskMult3 := 0
  pad := 0
  rate := 0
  offset := 0
  freq := 0
  level := 0
  power := 0
  syncOff := 0
  syncCnt := 0
  byteLen := 0
  bitLen := 0
  sampLen := 0
  byteBuf := { cells := [] }
  bitBuf := { cells := [] }
  sampBuf := { cells := [] }

/-- What is outside a block with parameters `p` when it is switched on (logs 1, 2, 7, 8). -/
def Outside.initial (p : Params) : Outside where
  impl := p
  byteEpoch := 0
  bitEpoch := 0
  sampEpoch := 0
  draws := 0
  host := []
  reply := 0

/-- The state after the hardware reset of an implementation with parameters `p`. -/
def State.powerOn (p : Params) : State := { toBlock := Block.reset, toOutside := Outside.initial p }

/-- The machine right after reset (R35), of the implementation log 3 names. -/
def State.reset : State := State.powerOn Config.initialParams

end Sys2Proof.Machine
end

