-- ==== Sys2Proof/Machine/Flags.lean ====
section
/-!
DEFINITION. The flags: the `STATUS` word and its field codes (10_state.md R20, 60_exceptions.md R185), and how a
command's end rewrites the result flags (R21; 00_scope.md section 6.4, `complete`).
-/

namespace Sys2Proof.Machine

/-- The number of a fault code (60_exceptions.md R185). -/
def ErrCode.code : ErrCode → BitVec 8
  | .none => 0x00
  | .illegalCmd => 0x01
  | .config => 0x02
  | .emptyInput => 0x03
  | .length => 0x04
  | .capacity => 0x05
  | .sample => 0x06
  | .external => 0x07

/-- The number of an `RSSTAT` value (R20). -/
def RsStat.code : RsStat → BitVec 2
  | .none => 0
  | .ok => 1
  | .short => 2
  | .fail => 3

/-- The word `STATUS` reads as: 31:16 zero, `ERRCODE` 15:8, `DECFAIL` 7, `RSSTAT` 6:5, `FOUND` 4, `EMPTY` 3, `ERR` 2,
`DONE` 1, `BUSY` 0 (R20). -/
def Status.word (t : Status) : Word :=
  (0 : BitVec 16) ++ (t.errCode.code ++ (BitVec.ofBool t.decFail ++ (t.rsStat.code ++ (BitVec.ofBool t.found
    ++ (BitVec.ofBool t.empty ++ (BitVec.ofBool t.err ++ (BitVec.ofBool t.done ++ BitVec.ofBool t.busy)))))))

/-- The result flags a command's rule lists; one it does not list is 0 (R21). -/
structure Flags where
  empty : Bool := false
  found : Bool := false
  rsStat : RsStat := .none
  decFail : Bool := false
deriving DecidableEq, Repr

/-- `complete(flags)`: `DONE <- 1`, `BUSY <- 0`, all four result flags rewritten; `ERR` and `ERRCODE` are not touched
(R21; 00_scope.md section 6.4). -/
def Status.complete (t : Status) (f : Flags) : Status :=
  { t with busy := false, done := true, empty := f.empty, found := f.found, rsStat := f.rsStat, decFail := f.decFail }

/-- `raise`: `ERR <- 1`, `ERRCODE <- code`, `BUSY <- 0`; `DONE` and the result flags keep their values
(60_exceptions.md R195). -/
def Status.raise (t : Status) (code : ErrCode) : Status :=
  { t with busy := false, err := true, errCode := code }

/-- Issue of a command: `DONE <- 0` (60_exceptions.md R192 step 2) and `BUSY <- 1` while it executes (10_state.md R20). -/
def Status.issued (t : Status) : Status := { t with busy := true, done := false }

/-- `CLRERR`'s part: `ERR <- 0`, `ERRCODE <- 0` (47_noise_and_system.md R180). -/
def Status.clearErr (t : Status) : Status := { t with err := false, errCode := .none }

/-- The flag of a command that wrote a sequence: `EMPTY` when it has length 0 (R20). -/
def Flags.written {α : Type} (v : List α) : Flags := { empty := v.isEmpty }

/-- The flags of a framing search (43_framing.md R119 to R121). -/
def Flags.search (v : Bits) (found : Bool) : Flags := { empty := v.isEmpty, found := found }

end Sys2Proof.Machine
end

