-- ==== Sys2Proof/Machine/Ops.lean ====
section
/-!
DEFINITION. The named operations over registers and buffers: host register access (20_memory.md R45), buffer elements
(R46), `In` and `Out` (00_scope.md section 6.4), issuing a command, taking a fault (60_exceptions.md R192, R195 to
R197), completing, and reset (70_reset_and_hazards.md R210).
-/

namespace Sys2Proof.Machine

/-! ## Buffer elements -/

/-- The element a list of cells holds at index `i`, if one was written there. -/
def cellAt {α : Type} : List (Nat × α) → Nat → Option α
  | [], _ => none
  | (j, v) :: rest, i => if j = i then some v else cellAt rest i

/-- Write `v` at index `i`, keeping the indices strictly rising. -/
def setCell {α : Type} (i : Nat) (v : α) : List (Nat × α) → List (Nat × α)
  | [] => [(i, v)]
  | (j, w) :: rest =>
    if i < j then (i, v) :: (j, w) :: rest
    else if i = j then (i, v) :: rest
    else (j, w) :: setCell i v rest

/-- The elements of `v` at indices `k`, `k+1`, ... -/
def cellsFrom {α : Type} : Nat → List α → List (Nat × α)
  | _, [] => []
  | k, v :: rest => (k, v) :: cellsFrom (k + 1) rest

/-- Canonical form: strictly rising indices. An unlisted index holds no written value, so no entry can equal what an
unlisted one holds. -/
def cellsRising {α : Type} : List (Nat × α) → Bool
  | [] => true
  | [_] => true
  | (i, _) :: (j, w) :: rest => decide (i < j) && cellsRising ((j, w) :: rest)

/-- The canonical form of a buffer. -/
def Buf.wf {α : Type} (b : Buf α) : Bool := cellsRising b.cells

/-- Every written index is below the capacity (20_memory.md R41). -/
def Buf.within {α : Type} (b : Buf α) (cap : Nat) : Bool := b.cells.all fun c => decide (c.1 < cap)

/-- The canonical form of the machine's memory: that of its three buffers. -/
def Memory.wf (s : State) : Bool := s.byteBuf.wf && s.bitBuf.wf && s.sampBuf.wf

/-- The element at index `i`: what was written there, else the free value it is given (93 U1; log 8). -/
def Buf.read {α : Type} (free : Nat → α) (b : Buf α) (i : Nat) : α := (cellAt b.cells i).getD (free i)

/-- `HostWriteBuf`'s store of one element (R46). -/
def Buf.write {α : Type} (b : Buf α) (i : Nat) (v : α) : Buf α := { cells := setCell i v b.cells }

/-- `MemWrite(BUF, 0, len(v), v)` by a command that found the length `oldLen`. When it shortens the buffer, what lies at
or above the new length holds any value from then on (93 U1); otherwise the elements beyond keep theirs (log 8). -/
def Buf.put {α : Type} (b : Buf α) (oldLen : Nat) (v : List α) : Buf α :=
  if v.length < oldLen then { cells := cellsFrom 0 v }
  else { cells := cellsFrom 0 v ++ b.cells.filter fun c => decide (v.length ≤ c.1) }

/-- The epoch after such a write: a shortened buffer starts a new one, so that what it gave up reads as a fresh free value
(93 U1; log 8). -/
def epochAfter (epoch oldLen newLen : Nat) : Nat := if newLen < oldLen then epoch + 1 else epoch

/-- Element `i` of `BYTEBUF`. -/
def State.byteAt (s : State) (i : Nat) : Byte := s.byteBuf.read (Config.freeByte s.byteEpoch) i

/-- Element `i` of `BITBUF`. -/
def State.bitAt (s : State) (i : Nat) : Bool := s.bitBuf.read (Config.freeBit s.bitEpoch) i

/-- Element `i` of `SAMPBUF`. -/
def State.sampleAt (s : State) (i : Nat) : F32 := s.sampBuf.read (Config.freeSample s.sampEpoch) i

/-! ## Register fields and the host's register accesses -/

/-- The bits of `CFG` that exist, 9:0 (10_state.md R24). -/
def cfgMask : Word := 0x000003FF

/-- `CFG.HAM_DSIZE`, bits 7:0 (R24). -/
def State.hamDSize (s : State) : Nat := (s.cfg.extractLsb' 0 8).toNat

/-- `CFG.SYNCX`, bit 8 (R24). -/
def State.syncX (s : State) : Bool := s.cfg.getLsbD 8

/-- `CFG.NOISE_GAUSS`, bit 9 (R24). -/
def State.noiseGauss (s : State) : Bool := s.cfg.getLsbD 9

/-- `CAPS`: `CAP_FSK` and `CAP_QPSK` are 1, `CAP_TB` is `TB_PRESENT`, the rest 0 (10_state.md R23). -/
def State.caps (s : State) : Word := 3 + 4 * (if s.impl.tbPresent then 1 else 0)

/-- `HostReadReg(off)`: the register's value; 0 for `CMD` and for an unassigned offset (20_memory.md R45; 10_state.md
R10). The reserved bits of `CFG` read 0. -/
def State.readReg (s : State) (off : Nat) : Word :=
  match off with
  | 0x04 => s.status.word
  | 0x08 => s.errInfo
  | 0x0C => s.caps
  | 0x10 => s.cfg &&& cfgMask
  | 0x14 => s.symRate
  | 0x18 => s.fskF0
  | 0x1C => s.fskF1
  | 0x20 => s.qpskBase
  | 0x24 => s.qpskMult0
  | 0x28 => s.qpskMult1
  | 0x2C => s.qpskMult2
  | 0x30 => s.qpskMult3
  | 0x34 => s.pad
  | 0x40 => s.rate
  | 0x44 => s.offset
  | 0x48 => s.freq
  | 0x4C => s.level
  | 0x50 => s.power
  | 0x54 => s.syncOff
  | 0x58 => s.syncCnt
  | 0x60 => s.byteLen
  | 0x64 => s.bitLen
  | 0x68 => s.sampLen
  | _ => 0

/-- `HostWriteReg(off, w)` at any offset but `CMD`'s: a read/write register takes `w`, `CFG` with its write mask; a
read-only or unassigned offset takes nothing (20_memory.md R45; 10_state.md R10, R24, R32). -/
def State.writeReg (s : State) (off : Nat) (w : Word) : State :=
  match off with
  | 0x10 => { s with cfg := w &&& cfgMask }
  | 0x14 => { s with symRate := w }
  | 0x18 => { s with fskF0 := w }
  | 0x1C => { s with fskF1 := w }
  | 0x20 => { s with qpskBase := w }
  | 0x24 => { s with qpskMult0 := w }
  | 0x28 => { s with qpskMult1 := w }
  | 0x2C => { s with qpskMult2 := w }
  | 0x30 => { s with qpskMult3 := w }
  | 0x34 => { s with pad := w }
  | 0x40 => { s with rate := w }
  | 0x44 => { s with offset := w }
  | 0x48 => { s with freq := w }
  | 0x4C => { s with level := w }
  | 0x60 => { s with byteLen := w }
  | 0x64 => { s with bitLen := w }
  | 0x68 => { s with sampLen := w }
  | _ => s

/-! ## Taking a fault, and returning from one -/

/-- What `raise Fault(code, info)` carries (00_scope.md section 6.4). -/
structure Raise where
  code : ErrCode
  info : Word
deriving DecidableEq, Repr

/-- What a command's own pseudocode answers: a completed state, or the fault it raises before any write. -/
abbrev Cmd := State → Except Raise State

/-- The raise whose detail word is a number (a length, an index, an offset; each below 2^32, 00_scope.md R6(c)). -/
def Raise.of (code : ErrCode) (info : Nat) : Raise := { code := code, info := BitVec.ofNat 32 info }

/-- Fault entry: `ERR`, `ERRCODE`, `ERRINFO` and `BUSY`, "and nothing else" (60_exceptions.md R195, R196). -/
def State.raise (s : State) (r : Raise) : State := { s with status := s.status.raise r.code, errInfo := r.info }

/-- The return: `CLRERR` clears `ERR`, `ERRCODE` and `ERRINFO` and restores nothing (R198; 47_noise_and_system.md R180). -/
def State.clearErr (s : State) : State := { s with status := s.status.clearErr, errInfo := 0 }

/-- Normal end of a command (10_state.md R21). -/
def State.complete (s : State) (f : Flags) : State := { s with status := s.status.complete f }

/-- The command has been issued (60_exceptions.md R192 step 2). -/
def State.issued (s : State) : State := { s with status := s.status.issued }

/-- The capacity of a buffer (20_memory.md R40). -/
def State.capacity (s : State) : BufId → Nat
  | .byte => s.impl.capBytes
  | .bit => s.impl.capBits
  | .samp => s.impl.capSamples

/-- A buffer's length register (10_state.md R32). -/
def State.lengthOf (s : State) : BufId → Nat
  | .byte => s.byteLen.toNat
  | .bit => s.bitLen.toNat
  | .samp => s.sampLen.toNat

/-- The byte offset of a buffer's length register (10_state.md R32). -/
def bufLenOffset : BufId → Nat
  | .byte => 0x60
  | .bit => 0x64
  | .samp => 0x68

/-- `Fault(ERR_CAPACITY, <offset of the length register>)` if `n` elements do not fit (10_state.md R32; 20_memory.md R44). -/
def State.checkCapacity (s : State) (b : BufId) (n : Nat) : Except Raise Unit :=
  if s.capacity b < n then .error (Raise.of .capacity (bufLenOffset b)) else .ok ()

/-- The end of a command: what it completed to, or the fault taken on the state it was issued in (R195, R196). -/
def State.settle (s : State) : Except Raise State → State
  | .ok t => t
  | .error r => s.raise r

/-- A write of a legal command word to `CMD` (60_exceptions.md R192): refused while a fault is pending (R197); else the
length of the input buffer, if there is one, is checked, and the command's own pseudocode runs. -/
def State.run (s : State) (input : Option BufId) (body : Cmd) : State :=
  if s.status.err then s
  else
    s.issued.settle
      (match input with
      | none => body s.issued
      | some b =>
        match s.issued.checkCapacity b (s.lengthOf b) with
        | .error r => .error r
        | .ok _ => body s.issued)

/-- A write of an illegal word to `CMD`: refused while a fault is pending, else `ERR_ILLEGAL_CMD` with the word
(30_encoding.md R64; 60_exceptions.md R192, R197). -/
def State.illegal (s : State) (w : Word) : State :=
  if s.status.err then s else s.issued.raise { code := .illegalCmd, info := w }

/-! ## `In` and `Out` -/

/-- `In(BYTEBUF)`: elements 0 .. `BYTELEN` - 1 (00_scope.md section 6.4; 20_memory.md R40). -/
def State.bytes (s : State) : List Byte := (List.range s.byteLen.toNat).map s.byteAt

/-- `In(BITBUF)`. -/
def State.bits (s : State) : Bits := (List.range s.bitLen.toNat).map s.bitAt

/-- The elements of `In(SAMPBUF)`, not yet checked. -/
def State.samples (s : State) : List F32 := (List.range s.sampLen.toNat).map s.sampleAt

/-- The writes of `Out(BYTEBUF, v)`: the elements and the length register. -/
def State.putBytes (s : State) (v : List Byte) : State :=
  { s with
    byteBuf := s.byteBuf.put s.byteLen.toNat v
    byteEpoch := epochAfter s.byteEpoch s.byteLen.toNat v.length
    byteLen := BitVec.ofNat 32 v.length }

/-- The writes of `Out(BITBUF, v)`. -/
def State.putBits (s : State) (v : Bits) : State :=
  { s with
    bitBuf := s.bitBuf.put s.bitLen.toNat v
    bitEpoch := epochAfter s.bitEpoch s.bitLen.toNat v.length
    bitLen := BitVec.ofNat 32 v.length }

/-- The writes of `Out(SAMPBUF, v)`. -/
def State.putSamples (s : State) (v : List F32) : State :=
  { s with
    sampBuf := s.sampBuf.put s.sampLen.toNat v
    sampEpoch := epochAfter s.sampEpoch s.sampLen.toNat v.length
    sampLen := BitVec.ofNat 32 v.length }

/-- `Out(BYTEBUF, v)` and then `complete(f)`: the capacity is checked before anything is written (20_memory.md R44). -/
def State.outBytes (s : State) (v : List Byte) (f : Flags) : Except Raise State :=
  match s.checkCapacity .byte v.length with
  | .error r => .error r
  | .ok _ => .ok ((s.putBytes v).complete f)

/-- `Out(BITBUF, v)` and then `complete(f)`. -/
def State.outBits (s : State) (v : Bits) (f : Flags) : Except Raise State :=
  match s.checkCapacity .bit v.length with
  | .error r => .error r
  | .ok _ => .ok ((s.putBits v).complete f)

/-! ## Reset -/

/-- What a reset means outside the block: every element of the three buffers is unspecified again, so each buffer starts
a new epoch; the parameters, the random source and the host are not reset (70_reset_and_hazards.md R211, R212). -/
def Outside.afterReset (o : Outside) : Outside :=
  { o with byteEpoch := o.byteEpoch + 1, bitEpoch := o.bitEpoch + 1, sampEpoch := o.sampEpoch + 1 }

/-- The reset event and the `RESET` command: the block as R35 gives it (70_reset_and_hazards.md R210). -/
def State.restart (s : State) : State := { toBlock := Block.reset, toOutside := s.toOutside.afterReset }

/-! ## The arguments of a command -/

/-- The arguments of a command issued in this state: its draws are the next ones of the random source (R172; log 7). -/
def State.env (s : State) : Env Config.numerics.Num Config.numerics.Draw := Config.env s.draws

end Sys2Proof.Machine
end

