-- ==== Sys2Proof/Machine/Operands.lean ====
section
/-!
DEFINITION. Where a command's arguments come from and the checks made on them (30_encoding.md R66): sequences and their
slices, checked samples (20_memory.md R54), the configuration checks (44_modulators.md R140; 45_goertzel.md R155;
47_noise_and_system.md R171; 41_hamming.md R90) in the order of 60_exceptions.md R193.
-/

namespace Sys2Proof.Machine

/-! ## Sequences (00_scope.md section 6.2) -/

/-- `s[a:b]`: elements a, ..., b-1; empty when a >= b. -/
def slice {α : Type} (s : List α) (a b : Nat) : List α := (s.drop a).take (b - a)

/-- The sequence cut into whole pieces of length `n`: piece c is `s[c·n : (c+1)·n]`, for c in 0 .. len(s) div n - 1. -/
def pieces {α : Type} (n : Nat) (s : List α) : List (List α) :=
  (List.range (s.length / n)).map fun c => slice s (c * n) ((c + 1) * n)

/-- A number written as `n` bits, most significant first (20_memory.md R42(a)). -/
def bitsOfNat (n v : Nat) : Bits := (List.range n).map fun i => v.testBit (n - 1 - i)

/-- The number whose bits, most significant first, these are. -/
def natOfBits (s : Bits) : Nat := s.foldl (fun acc b => 2 * acc + b.toNat) 0

/-! ## Samples -/

/-- The index of the first element that is no valid sample, counting from `i` (R54). -/
def firstBadSample : Nat → List F32 → Option Nat
  | _, [] => none
  | i, x :: rest => if F32.isSample x then firstBadSample (i + 1) rest else some i

/-- `In(SAMPBUF)`: every element checked in index order (R54). -/
def State.checkedSamples (s : State) : Except Raise (List F32) :=
  match firstBadSample 0 s.samples with
  | some i => .error (Raise.of .sample i)
  | none => .ok s.samples

/-- A non-empty waveform, for the commands that detect tones: `ERR_SAMPLE` before `ERR_EMPTY_INPUT` (60_exceptions.md
R193 (3), (4)). -/
def State.waveform (s : State) : Except Raise (List F32) :=
  match s.checkedSamples with
  | .error r => .error r
  | .ok wv => if wv.isEmpty then .error (Raise.of .emptyInput 0x68) else .ok wv

/-! ## Register checks -/

/-- One check: the raise, or nothing. -/
def need (ok : Bool) (code : ErrCode) (info : Nat) : Except Raise Unit :=
  if ok then .ok () else .error (Raise.of code info)

/-- Checks made one after the other; the first failure is the one reported (60_exceptions.md R193). -/
def firstFailure : List (Except Raise Unit) → Except Raise Unit
  | [] => .ok ()
  | .error r :: _ => .error r
  | .ok _ :: rest => firstFailure rest

/-- `HAM_DSIZE` is 4 or 8 (41_hamming.md R90). -/
def State.checkHam (s : State) : Except Raise Unit := need (s.hamDSize == 4 || s.hamDSize == 8) .config 0x10

/-- `RATE > 0` (10_state.md R16). -/
def State.checkRate (s : State) : Except Raise Unit := need (decide (0 < s.rate.toNat)) .config 0x40

/-- `0 < SYMRATE <= RATE` (44_modulators.md R130). -/
def State.checkSymRate (s : State) : Except Raise Unit :=
  need (decide (0 < s.symRate.toNat) && decide (s.symRate.toNat ≤ s.rate.toNat)) .config 0x14

/-- `LEVEL` finite and >= 0 (10_state.md R19). -/
def State.checkLevel (s : State) : Except Raise Unit := need (F32.isNonneg s.level) .config 0x4C

/-- `FREQ` finite and >= 0 (10_state.md R18). -/
def State.checkFreq (s : State) : Except Raise Unit := need (F32.isNonneg s.freq) .config 0x48

/-- Step 4 of `checkScheme` (44_modulators.md R140): the scheme's frequency registers, in offset order; then each
multiplier differs in value from the earlier ones, the later of two equal ones being the offender. -/
def State.freqChecks (s : State) : Scheme → List (Except Raise Unit)
  | .fsk => [need (F32.isPositive s.fskF0) .config 0x18, need (F32.isPositive s.fskF1) .config 0x1C]
  | .qpsk =>
    [need (F32.isPositive s.qpskBase) .config 0x20,
     need (F32.isPositive s.qpskMult0) .config 0x24,
     need (F32.isPositive s.qpskMult1) .config 0x28,
     need (F32.isPositive s.qpskMult2) .config 0x2C,
     need (F32.isPositive s.qpskMult3) .config 0x30,
     need (!F32.sameValue s.qpskMult1 s.qpskMult0) .config 0x28,
     need (!F32.sameValue s.qpskMult2 s.qpskMult0 && !F32.sameValue s.qpskMult2 s.qpskMult1) .config 0x2C,
     need (!F32.sameValue s.qpskMult3 s.qpskMult0 && !F32.sameValue s.qpskMult3 s.qpskMult1
       && !F32.sameValue s.qpskMult3 s.qpskMult2) .config 0x30]
  | .tb => []

/-- What a scheme command is for; it decides the last checks of `checkScheme` (R140, steps 5 and 6). -/
inductive Role where
  | modulate
  | demodulate
  | framed
deriving DecidableEq, Repr

/-- `checkScheme(s)` of the command whose word is `w` (44_modulators.md R140), steps 1 to 6. -/
def State.checkScheme (s : State) (sch : Scheme) (role : Role) (w : Word) : Except Raise Unit :=
  firstFailure
    ((match sch with
      | .tb => [need s.impl.tbPresent .external w.toNat]
      | .fsk | .qpsk => [])
      ++ [s.checkRate, s.checkSymRate]
      ++ s.freqChecks sch
      ++ (match role with
        | .modulate => [s.checkLevel]
        | .demodulate => []
        | .framed => [s.checkHam]))

/-- `sps = Fs div SR` (44_modulators.md R130). -/
def State.sps (s : State) : Nat := s.rate.toNat / s.symRate.toNat

end Sys2Proof.Machine
end

