-- ==== Sys2Proof/Machine/Tones.lean ====
section
/-!
DEFINITION. The arithmetic of the tone and detector datapaths over any `NUMERICS` (10_state.md R29): the Goertzel
detector (45_goertzel.md R150 to R152), tone synthesis (44_modulators.md R133) and the noise injector
(47_noise_and_system.md R170, R172, R173). Each formula has its operations in the order the pseudocode writes them.
-/

namespace Sys2Proof.Machine

variable {R D : Type}

/-! ## Goertzel -/

/-- `k = round(N · f / Fs)` (R151). -/
def binIndex (A : Arith R) (tie : RoundTie) (n : Nat) (f : R) (fs : Nat) : Nat :=
  A.roundInt tie (A.div (A.mul (A.ofNat n) f) (A.ofNat fs))

/-- `coeff = 2 · cos(2π · k / N)` (R151). -/
def coefficient (A : Arith R) (k n : Nat) : R := A.mul (A.ofNat 2) (A.cos2pi (A.div (A.ofNat k) (A.ofNat n)))

/-- One turn of the recurrence on the pair (q1, q2): `q0 = coeff·q1 - q2 + x; q2 = q1; q1 = q0` (R152, R157(d)). -/
def goertzelStep (A : Arith R) (coeff : R) (q : R × R) (x : R) : R × R :=
  (A.add (A.sub (A.mul coeff q.1) q.2) x, q.1)

/-- The pair after all samples, from (0, 0), in index order (R152). -/
def goertzelPair (A : Arith R) (coeff : R) (xs : List R) : R × R :=
  xs.foldl (goertzelStep A coeff) (A.ofNat 0, A.ofNat 0)

/-- `sqrt(q1·q1 + q2·q2 - q1·q2·coeff)` (R152). -/
def goertzelResult (A : Arith R) (coeff : R) (q : R × R) : R :=
  A.sqrt (A.sub (A.add (A.mul q.1 q.1) (A.mul q.2 q.2)) (A.mul (A.mul q.1 q.2) coeff))

/-- `goertzel(w, f, Fs)` on the values of a window (R152). -/
def goertzel (A : Arith R) (tie : RoundTie) (xs : List R) (f : R) (fs : Nat) : R :=
  let coeff := coefficient A (binIndex A tie xs.length f fs) xs.length
  goertzelResult A coeff (goertzelPair A coeff xs)

/-- The detector on a window of samples, each read by `val`. -/
def detect (A : Arith R) (tie : RoundTie) (w : List F32) (f : R) (fs : Nat) : R :=
  goertzel A tie (w.map A.val) f fs

/-! ## Tones -/

/-- Sample j of a tone: `toF32(TONE_AMPL · sin(2π · f · j / Fs))` (R133). -/
def toneSample (A : Arith R) (f : R) (fs j : Nat) : F32 :=
  A.toF32 (A.mul (A.val F32.one) (A.sin2pi (A.div (A.mul f (A.ofNat j)) (A.ofNat fs))))

/-- `tone(f, Fs, n)`: the phase restarts at 0 (R133). -/
def tone (A : Arith R) (f : R) (fs n : Nat) : List F32 := (List.range n).map (toneSample A f fs)

/-! ## Noise, over the real numbers -/

/-- The nearest number to `r` between two others; with -1 and 1, `clamp(r)` (R170). -/
def clampTo (X : RealOps D) (lo hi r : D) : D := if X.gt lo r then lo else if X.gt r hi then hi else r

/-- The draw as its domain D has it: any number in [-level, level] (uniform), or any number at all (Gaussian) (R172). -/
def drawIn (X : RealOps D) (gauss : Bool) (level : F32) (d : D) : D :=
  if gauss then d else clampTo X (X.val (F32.negate level)) (X.val level) d

/-- One noisy sample: `toF32(clamp(val(w[i]) + d_i))` (R170). -/
def noisySample (X : RealOps D) (gauss : Bool) (level x : F32) (d : D) : F32 :=
  X.toF32 (clampTo X (X.val F32.negOne) (X.val F32.one) (X.add (X.val x) (drawIn X gauss level d)))

/-- Noise on every sample in index order, one draw each, from draw `k` of the sequence on (R170). -/
def noisySamples (X : RealOps D) (draw : Nat → D) (gauss : Bool) (level : F32) : Nat → List F32 → List F32
  | _, [] => []
  | k, x :: rest => noisySample X gauss level x (draw k) :: noisySamples X draw gauss level (k + 1) rest

/-- `addNoise(w, level)` with its sequence of draws; a level of value 0 changes nothing and takes no draw (R170, R173). -/
def addNoise (X : RealOps D) (draw : Nat → D) (gauss : Bool) (level : F32) (w : List F32) : List F32 :=
  if F32.units level = 0 then w else noisySamples X draw gauss level 0 w

/-- How many draws `addNoise` takes (R170, R173). -/
def drawsTaken (level : F32) (n : Nat) : Nat := if F32.units level = 0 then 0 else n

end Sys2Proof.Machine
end

