-- ==== Sys2Proof/Machine/Detector.lean ====
section
/-!
DEFINITION. The command `GOERTZEL` (45_goertzel.md R155).
-/

namespace Sys2Proof.Machine

variable {R D : Type}

/-- R155: `RATE`, `FREQ`, the samples, then the magnitude of the whole buffer into `POWER`; no buffer is written. -/
def goertzelBody (E : Env R D) : Cmd := fun s =>
  match firstFailure [s.checkRate, s.checkFreq] with
  | .error r => .error r
  | .ok _ =>
    match s.waveform with
    | .error r => .error r
    | .ok w =>
      .ok ({ s with
        power := E.arith.toF32 (detect E.arith s.impl.roundTie w (E.arith.val s.freq) s.rate.toNat) }.complete {})

/-- `GOERTZEL` (R155). -/
def execGoertzel (s : State) : Host.Outcome State Fault Refusal :=
  .next (s.run (some .samp) (goertzelBody s.env))

end Sys2Proof.Machine
end

