-- ==== Sys2Proof/Machine/ReedSolomon.lean ====
section
/-!
DEFINITION. The Reed–Solomon outer code: the field, the generator, the check bytes, bounded-distance correction, and
the commands `RS.ENC`, `RS.DEC` (42_reed_solomon.md R100 to R107), with the spec's default parameters (log 9).
-/

namespace Sys2Proof.Machine

/-! ## GF(256) (R101) -/

/-- The product of two bytes as polynomials over GF(2): the XOR of `a << i` over the set bits i of b. -/
def polyMul (a b : Nat) : Nat :=
  (List.range 8).foldl (fun r i => if b.testBit i then r ^^^ (a <<< i) else r) 0

/-- The remainder by the primitive polynomial: bits 14 down to 8 are cleared one after the other. -/
def polyReduce (r : Nat) : Nat :=
  [14, 13, 12, 11, 10, 9, 8].foldl (fun r i => if r.testBit i then r ^^^ (Config.rsPrimPoly <<< (i - 8)) else r) r

/-- `gmul(a, b)`. -/
def gmul (a b : Byte) : Byte := BitVec.ofNat 8 (polyReduce (polyMul a.toNat b.toNat))

/-- The k-th power of a field element. -/
def gpow (a : Byte) : Nat → Byte
  | 0 => 1
  | k + 1 => gmul a (gpow a k)

/-- The inverse of a nonzero element: its 254th power, the nonzero elements forming a group of order 255; 254 is
2 + 4 + ... + 128, so it is the product of the seven repeated squares. -/
def ginv (a : Byte) : Byte :=
  ((List.range 7).foldl (fun (q : Byte × Byte) _ => (gmul q.1 q.1, gmul (gmul q.1 q.1) q.2)) (a, 1)).2

/-- `α^k`. -/
def alphaPow (k : Nat) : Byte := gpow Config.rsAlpha k

/-- The value at `x` of the polynomial with these coefficients, highest power first. -/
def polyEval (c : List Byte) (x : Byte) : Byte := c.foldl (fun acc b => gmul acc x ^^^ b) 0

/-- A polynomial, highest power first, times `(x - a)`; subtraction is XOR. -/
def mulLinear (g : List Byte) (a : Byte) : List Byte :=
  List.zipWith (· ^^^ ·) (g ++ [0]) (0 :: g.map (gmul a))

/-- The generator polynomial, highest power first: the product of `x - α^(FCR + i)` for i below `RS_NSYM` (R102). -/
def genPoly : List Byte :=
  (List.range Config.rsNsym).foldl (fun g i => mulLinear g (alphaPow (Config.rsFcr + i))) [1]

/-! ## Check bytes (R103) -/

/-- XOR a sequence into the front of another, keeping the rest. -/
def xorFront : List Byte → List Byte → List Byte
  | t, [] => t
  | [], _ => []
  | a :: t, b :: u => (a ^^^ b) :: xorFront t u

/-- `n` steps of the division: the leading coefficient is taken off and the generator's other coefficients, times it,
are XORed into what follows. -/
def divideSteps (g : List Byte) : Nat → List Byte → List Byte
  | 0, rem => rem
  | _ + 1, [] => []
  | n + 1, c :: rest => divideSteps g n (xorFront rest (g.map fun b => gmul b c))

/-- `rsEcc(body)`: the remainder of `M(x)·x^8` by the generator, 8 bytes, highest power first. -/
def rsEcc (body : List Byte) : List Byte :=
  divideSteps genPoly.tail body.length (body ++ List.replicate Config.rsNsym 0)

/-- The codeword of a message: length prefix, message, check bytes (R104; 30_encoding.md R69). -/
def rsEncode (m : List Byte) : List Byte :=
  let body := BitVec.ofNat 8 (m.length / 256) :: BitVec.ofNat 8 (m.length % 256) :: m
  body ++ rsEcc body

/-! ## Correction (R105) -/

/-- The syndromes: the received word's values at α^0 .. α^7. -/
def syndromes (r : List Byte) : List Byte :=
  (List.range Config.rsNsym).map fun j => polyEval r (alphaPow (Config.rsFcr + j))

/-- A codeword: it evaluates to 0 at α^0 .. α^7 (R103, R105). -/
def isCodeword (c : List Byte) : Bool := (syndromes c).all (· == 0)

/-- In how many positions two words differ. -/
def distance (a b : List Byte) : Nat := ((List.zipWith (· != ·) a b).filter id).length

/-- The first row whose leading coefficient is not 0, and the other rows. -/
def takePivot : List (List Byte) → Option (List Byte × List (List Byte))
  | [] => none
  | row :: rest =>
    if row.headD 0 != 0 then some (row, rest)
    else match takePivot rest with
      | some (p, others) => some (p, row :: others)
      | none => none

/-- The sum of the products of two sequences. -/
def dot (a b : List Byte) : Byte := (List.zipWith gmul a b).foldl (· ^^^ ·) 0

/-- Gaussian elimination over GF(256): the solution of linear equations in `n` unknowns, each row its `n` coefficients
and then its right side; none if it is not unique or does not exist. -/
def solve : Nat → List (List Byte) → Option (List Byte)
  | 0, rows => if rows.all (fun row => row.headD 0 == 0) then some [] else none
  | n + 1, rows =>
    match takePivot rows with
    | none => none
    | some (pivot, others) =>
      let p := (pivot.map (gmul (ginv (pivot.headD 0)))).tail
      match solve n (others.map fun row => List.zipWith (· ^^^ ·) row.tail (p.map (gmul (row.headD 0)))) with
      | none => none
      | some sol => some ((p.getD n 0 ^^^ dot (p.take n) sol) :: sol)

/-- The error locator's coefficients for `u` errors: Λ_1 .. Λ_u with `S[j+u] = Σ Λ_i·S[j+u-i]` for every j. -/
def locator (synd : List Byte) (u : Nat) : Option (List Byte) :=
  solve u ((List.range (Config.rsNsym - u)).map fun j => ((synd.drop j).take u).reverse ++ [synd.getD (j + u) 0])

/-- The location number of index `i` of a word of `n` bytes: α to the power its byte has. -/
def location (n i : Nat) : Byte := alphaPow (n - 1 - i)

/-- The indices whose location number is a root of `x^u + Λ_1·x^(u-1) + ... + Λ_u`. -/
def errorIndices (n : Nat) (lam : List Byte) : List Nat :=
  (List.range n).filter fun i => polyEval (1 :: lam) (location n i) == 0

/-- The error values at given indices: Y_k with `S_j = Σ Y_k·X_k^j` for every j. -/
def errorValues (n : Nat) (synd : List Byte) (idx : List Nat) : Option (List Byte) :=
  solve idx.length ((List.range Config.rsNsym).map fun j =>
    idx.map (fun i => gpow (location n i) (Config.rsFcr + j)) ++ [synd.getD j 0])

/-- The word with the error values XORed in at their indices. -/
def applyErrors (r : List Byte) : List (Nat × Byte) → List Byte
  | [] => r
  | (i, y) :: rest => applyErrors (r.set i (r.getD i 0 ^^^ y)) rest

/-- The correction of `r` under the supposition of `u` errors; kept only if it is a codeword within distance 4. -/
def correctWith (r : List Byte) (u : Nat) : Option (List Byte) :=
  match locator (syndromes r) u with
  | none => none
  | some lam =>
    let idx := errorIndices r.length lam
    match errorValues r.length (syndromes r) idx with
    | none => none
    | some y =>
      let c := applyErrors r (idx.zip y)
      if isCodeword c && decide (distance c r ≤ 4) then some c else none

/-- `rsCorrect(r)`: the codeword that differs from `r` in at most 4 positions, if there is one (R105); found by trying
0, 1, 2, 3, 4 errors (log 10). -/
def rsCorrect (r : List Byte) : Option (List Byte) := [0, 1, 2, 3, 4].findSome? (correctWith r)

/-! ## The commands -/

/-- R104. -/
def rsEncBody : Cmd := fun s =>
  match need (decide (s.bytes.length ≤ Config.rsMaxMsg)) .length s.bytes.length with
  | .error r => .error r
  | .ok _ => s.outBytes (rsEncode s.bytes) {}

/-- The bytes and the tag `RS.DEC` leaves, as a function of the input (R106). -/
def rsDecode (r : List Byte) : List Byte × RsStat :=
  if r.length < 10 then (r, .short)
  else if 255 < r.length then (r, .fail)
  else match rsCorrect r with
    | none => (r, .fail)
    | some c =>
      let len := (c.getD 0 0).toNat * 256 + (c.getD 1 0).toNat
      if r.length - 10 < len then (r, .fail) else (slice c 2 (2 + len), .ok)

/-- R106. -/
def rsDecBody : Cmd := fun s =>
  s.outBytes (rsDecode s.bytes).1 { empty := (rsDecode s.bytes).1.isEmpty, rsStat := (rsDecode s.bytes).2 }

/-- `RS.ENC` (R104). -/
def execRsEnc (s : State) : Host.Outcome State Fault Refusal := .next (s.run (some .byte) rsEncBody)

/-- `RS.DEC` (R106). -/
def execRsDec (s : State) : Host.Outcome State Fault Refusal := .next (s.run (some .byte) rsDecBody)

end Sys2Proof.Machine
end

