-- ==== Sys2Proof/Machine/BitCodec.lean ====
section
/-!
DEFINITION. The bit codec: `BYTES2BITS`, `BITS2BYTES.T`, `BITS2BYTES.S` (40_bit_codec.md R80 to R83).
-/

namespace Sys2Proof.Machine

/-- The eight bits of a byte, most significant first (R80; 20_memory.md R42(a)). -/
def bitsOfByte (b : Byte) : Bits := bitsOfNat 8 b.toNat

/-- `bytesToBits` (R80). -/
def bytesToBits (b : List Byte) : Bits := b.flatMap bitsOfByte

/-- `bitsToBytes`: the trailing `n mod 8` bits are dropped (R81). -/
def bitsToBytes (s : Bits) : List Byte := (pieces 8 s).map fun p => BitVec.ofNat 8 (natOfBits p)

/-- R80. -/
def bytes2BitsBody : Cmd := fun s => s.outBits (bytesToBits s.bytes) (Flags.written s.bytes)

/-- R81. -/
def bits2BytesBody : Cmd := fun s => s.outBytes (bitsToBytes s.bits) (Flags.written (bitsToBytes s.bits))

/-- R82: a length that is no multiple of 8 is refused first. -/
def bits2BytesStrictBody : Cmd := fun s =>
  match need (decide (s.bits.length % 8 = 0)) .length s.bits.length with
  | .error r => .error r
  | .ok _ => bits2BytesBody s

/-- `BYTES2BITS` (R80). -/
def execBytes2Bits (s : State) : Host.Outcome State Fault Refusal := .next (s.run (some .byte) bytes2BitsBody)

/-- `BITS2BYTES.T` (R81). -/
def execBits2BytesT (s : State) : Host.Outcome State Fault Refusal := .next (s.run (some .bit) bits2BytesBody)

/-- `BITS2BYTES.S` (R82). -/
def execBits2BytesS (s : State) : Host.Outcome State Fault Refusal := .next (s.run (some .bit) bits2BytesStrictBody)

end Sys2Proof.Machine
end

