-- ==== Sys2Proof/Machine/Hamming.lean ====
section
/-!
DEFINITION. The Hamming block code: geometry, parity, `HamEnc_d`, `HamDec_d`, and the commands `HAM.ENC`, `HAM.DEC`
(41_hamming.md R90 to R97). Positions are 1-based, as in the rules.
-/

namespace Sys2Proof.Machine

/-- `isPow2(i)` for i >= 1 (00_scope.md section 6.3). -/
def isPow2 (i : Nat) : Bool := decide (i ≠ 0) && i &&& (i - 1) == 0

/-- The positions 1 .. n. -/
def positions (n : Nat) : List Nat := (List.range n).map (· + 1)

/-- The parity positions within a block of n bits: the powers of two (R91; 10_state.md R33). -/
def parityPositions (n : Nat) : List Nat := (positions n).filter isPow2

/-- The data positions within a block of n bits: the others, ascending (R91). -/
def dataPositions (n : Nat) : List Nat := (positions n).filter fun i => !isPow2 i

/-- `HAM_BLEN(d)`: the least n with `n - #(powers of two in 1..n) = d`; computed, never hard-coded (R91). -/
def hamBLen (d : Nat) : Nat :=
  ((List.range (2 * d + 3)).find? fun n => (dataPositions n).length == d).getD 0

/-- The bit at 1-based position `i` of a block. -/
def bitAt1 (blk : Bits) (i : Nat) : Bool := blk.getD (i - 1) false

/-- The positions i in 1 .. n that are no power of two and have `(i & p) != 0` (R92). -/
def covered (n p : Nat) : List Nat := (dataPositions n).filter fun i => i &&& p != 0

/-- `par(blk, p)` of a block of n bits: the XOR of the bits at the covered positions (R92). -/
def par (n : Nat) (blk : Bits) (p : Nat) : Bool := (covered n p).foldl (fun acc i => acc ^^ bitAt1 blk i) false

/-- The block with the data bits of a chunk in its data positions, in order, and 0 in the others (R93). -/
def placeData (n : Nat) (chunk : Bits) : Bits :=
  (positions n).map fun i => if isPow2 i then false else chunk.getD ((dataPositions n).idxOf i) false

/-- One chunk encoded: data placed, then each parity position filled with its parity (R93). -/
def hamEncBlock (d : Nat) (chunk : Bits) : Bits :=
  let blk := placeData (hamBLen d) chunk
  (positions (hamBLen d)).map fun i => if isPow2 i then par (hamBLen d) blk i else bitAt1 blk i

/-- `HamEnc_d(s)` (R93). -/
def hamEnc (d : Nat) (s : Bits) : Bits := (pieces d s).flatMap (hamEncBlock d)

/-- The syndrome: bit j is the recomputed parity of the j-th parity position XOR the stored bit (R94). -/
def syndrome (d : Nat) (blk : Bits) : Nat :=
  (parityPositions (hamBLen d)).zipIdx.foldl
    (fun syn pj => if par (hamBLen d) blk pj.1 ^^ bitAt1 blk pj.1 then syn ||| (1 <<< pj.2) else syn) 0

/-- `HamDecBlock_d(blk)`: the bit the syndrome names is flipped if it is in range, then the data bits are taken; a
syndrome beyond the block flips nothing and is not reported (R94; 90_conflicts.md C10). -/
def hamDecBlock (d : Nat) (blk : Bits) : Bits :=
  let syn := syndrome d blk
  let fixed := if 1 ≤ syn ∧ syn ≤ hamBLen d then blk.set (syn - 1) (!bitAt1 blk syn) else blk
  (dataPositions (hamBLen d)).map fun i => bitAt1 fixed i

/-- `HamDec_d(s)`: none when the length is no whole number of blocks (R95). -/
def hamDec (d : Nat) (s : Bits) : Option Bits :=
  if s.length % hamBLen d ≠ 0 then none else some ((pieces (hamBLen d) s).flatMap (hamDecBlock d))

/-- R93. -/
def hamEncBody : Cmd := fun s =>
  match firstFailure [s.checkHam, need (decide (s.bits.length % s.hamDSize = 0)) .length s.bits.length] with
  | .error r => .error r
  | .ok _ => s.outBits (hamEnc s.hamDSize s.bits) (Flags.written s.bits)

/-- R95: a wrong length is an empty result with `DECFAIL`, not a fault. -/
def hamDecBody : Cmd := fun s =>
  match s.checkHam with
  | .error r => .error r
  | .ok _ =>
    match hamDec s.hamDSize s.bits with
    | none => s.outBits [] { empty := true, decFail := true }
    | some r => s.outBits r (Flags.written r)

/-- `HAM.ENC` (R93). -/
def execHamEnc (s : State) : Host.Outcome State Fault Refusal := .next (s.run (some .bit) hamEncBody)

/-- `HAM.DEC` (R95). -/
def execHamDec (s : State) : Host.Outcome State Fault Refusal := .next (s.run (some .bit) hamDecBody)

end Sys2Proof.Machine
end

