-- ==== Sys2Proof/Machine/Framing.lean ====
section
/-!
DEFINITION. Framing: the markers, the marker search and the commands `FRM.*` (43_framing.md R115 to R124).
-/

namespace Sys2Proof.Machine

/-- The two raw bytes of a marker: `S` STX and ETX `E` (R115; D19). -/
def rawBytes : Marker → List Byte
  | .start => [0x53, 0x02]
  | .finish => [0x03, 0x45]

/-- `RAWMARK(kind)`: the sixteen raw bits (R115). -/
def rawMark (k : Marker) : Bits := bytesToBits (rawBytes k)

/-- `CODEDMARK_d(kind)`, the Hamming coder alone (R115; 90_conflicts.md C7). -/
def codedMark (d : Nat) (k : Marker) : Bits := hamEnc d (rawMark k)

/-- `markerLen = (16 div d)·HAM_BLEN(d)` (R115). -/
def markerLen (d : Nat) : Nat := 16 / d * hamBLen d

/-- The frame around a coded payload (R117; 30_encoding.md R67). -/
def wrapFrame (d : Nat) (p : Bits) : Bits := codedMark d .start ++ p ++ codedMark d .finish

/-- `matchAt(bits, i, kind)`: the window decodes to the raw marker (R118). -/
def matchAt (d : Nat) (b : Bits) (i : Nat) (k : Marker) : Bool :=
  hamDec d (slice b i (i + markerLen d)) == some (rawMark k)

/-- The window positions a search tries, ascending: 0 .. len(b) - markerLen, none if the input is shorter (R119). -/
def windowStarts (d : Nat) (b : Bits) : List Nat :=
  if markerLen d ≤ b.length then List.range (b.length - markerLen d + 1) else []

/-- `stripLeading_d(b)`: what follows the first start marker, and whether there is one (R119). -/
def stripLeading (d : Nat) (b : Bits) : Bits × Bool :=
  match (windowStarts d b).find? fun i => matchAt d b i .start with
  | some i => (slice b (i + markerLen d) b.length, true)
  | none => ([], false)

/-- `stripTrailing_d(b)`: what precedes the last end marker, and whether there is one (R120). -/
def stripTrailing (d : Nat) (b : Bits) : Bits × Bool :=
  match (windowStarts d b).reverse.find? fun i => matchAt d b i .finish with
  | some i => (slice b 0 i, true)
  | none => ([], false)

/-- `unwrap_d(b)`: the end marker is sought in what the leading strip returned (R121). -/
def unwrapFrame (d : Nat) (b : Bits) : Bits × Bool :=
  if (stripLeading d b).2 then
    if (stripTrailing d (stripLeading d b).1).2 then ((stripTrailing d (stripLeading d b).1).1, true) else ([], false)
  else ([], false)

/-- The commands that write a sequence found from no input or from the whole input, once `HAM_DSIZE` is checked. -/
def frameBody (f : Nat → Bits → Bits) : Cmd := fun s =>
  match s.checkHam with
  | .error r => .error r
  | .ok _ => s.outBits (f s.hamDSize s.bits) {}

/-- The commands that search. -/
def searchBody (f : Nat → Bits → Bits × Bool) : Cmd := fun s =>
  match s.checkHam with
  | .error r => .error r
  | .ok _ => s.outBits (f s.hamDSize s.bits).1 (Flags.search (f s.hamDSize s.bits).1 (f s.hamDSize s.bits).2)

/-- `FRM.MARK.S` (R116): no input buffer. -/
def execFrmMarkS (s : State) : Host.Outcome State Fault Refusal :=
  .next (s.run none (frameBody fun d _ => codedMark d .start))

/-- `FRM.MARK.E` (R116). -/
def execFrmMarkE (s : State) : Host.Outcome State Fault Refusal :=
  .next (s.run none (frameBody fun d _ => codedMark d .finish))

/-- `FRM.WRAP` (R117). -/
def execFrmWrap (s : State) : Host.Outcome State Fault Refusal := .next (s.run (some .bit) (frameBody wrapFrame))

/-- `FRM.STRIPL` (R119). -/
def execFrmStripL (s : State) : Host.Outcome State Fault Refusal := .next (s.run (some .bit) (searchBody stripLeading))

/-- `FRM.STRIPT` (R120). -/
def execFrmStripT (s : State) : Host.Outcome State Fault Refusal := .next (s.run (some .bit) (searchBody stripTrailing))

/-- `FRM.UNWRAP` (R121). -/
def execFrmUnwrap (s : State) : Host.Outcome State Fault Refusal := .next (s.run (some .bit) (searchBody unwrapFrame))

end Sys2Proof.Machine
end

