-- ==== Sys2Proof/Machine/Noise.lean ====
section
/-!
DEFINITION. The command `NOISE.ADD` (47_noise_and_system.md R171) and the noise the encoders add (44_modulators.md R138).
-/

namespace Sys2Proof.Machine

variable {R D : Type}

/-- `addNoise` with the level and the kind of noise of a state and the draws the command is given (R170, R172). -/
def State.noised (s : State) (E : Env R D) (w : List F32) : List F32 :=
  addNoise E.reals E.draw s.noiseGauss s.level w

/-- The state with the draws `addNoise` takes on `n` samples taken (R172, R173). -/
def State.drawn (s : State) (n : Nat) : State := { s with draws := s.draws + drawsTaken s.level n }

/-- R171. -/
def noiseAddBody (E : Env R D) : Cmd := fun s =>
  match s.checkLevel with
  | .error r => .error r
  | .ok _ =>
    match s.checkedSamples with
    | .error r => .error r
    | .ok w => .ok (((s.putSamples (s.noised E w)).drawn w.length).complete (Flags.written w))

/-- `NOISE.ADD` (R171). -/
def execNoiseAdd (s : State) : Host.Outcome State Fault Refusal :=
  .next (s.run (some .samp) (noiseAddBody s.env))

end Sys2Proof.Machine
end

