-- ==== Sys2Proof/Machine/Modem.lean ====
section
/-!
DEFINITION. The modulators and demodulators: `*.MOD`, `*.DEM`, `*.DECODE` (44_modulators.md R130 to R143), over any
arithmetic, draws and codec.
-/

namespace Sys2Proof.Machine

variable {R D : Type}

/-! ## Tone tables (10_state.md R33) -/

/-- `FTAB`: the frequency of a bit (R132). -/
def State.fskFreq (s : State) (A : Arith R) (b : Bool) : R := A.val (if b then s.fskF1 else s.fskF0)

/-- The multiplier register of pattern k (10_state.md R27). -/
def State.qpskMult (s : State) : Nat → F32
  | 0 => s.qpskMult0
  | 1 => s.qpskMult1
  | 2 => s.qpskMult2
  | _ => s.qpskMult3

/-- `QTAB`: `fq[k] = val(QPSK_BASE) · val(QPSK_MULTk)` (R135). -/
def State.qpskFreq (s : State) (A : Arith R) (k : Nat) : R := A.mul (A.val s.qpskBase) (A.val (s.qpskMult k))

/-! ## Modulation -/

/-- The tones of the bits, one a bit (R132). -/
def fskWave (s : State) (A : Arith R) (b : Bits) : List F32 :=
  b.flatMap fun x => tone A (s.fskFreq A x) s.rate.toNat s.sps

/-- The tones of the pairs of bits, one a pair, the first bit of a pair the more significant (R136). -/
def qpskWave (s : State) (A : Arith R) (b : Bits) : List F32 :=
  (pieces 2 b).flatMap fun p => tone A (s.qpskFreq A (natOfBits p)) s.rate.toNat s.sps

/-- The padded waveform, before noise (R138). -/
def State.padded (s : State) (w : List F32) : List F32 :=
  List.replicate s.pad.toNat F32.zero ++ w ++ List.replicate s.pad.toNat F32.zero

/-- `Out(SAMPBUF, finish(w))` and completion, where `n` is the length of `w`: the length `2·PAD + n` is checked against
the capacity before any sample is made, which is what `Out` does with the made sequence (R138; 20_memory.md R44). -/
def State.outWave (s : State) (E : Env R D) (n : Nat) (w : List F32) : Except Raise State :=
  match s.checkCapacity .samp (2 * s.pad.toNat + n) with
  | .error r => .error r
  | .ok _ =>
    .ok (((s.putSamples (s.noised E (s.padded w))).drawn (2 * s.pad.toNat + n)).complete
      { empty := 2 * s.pad.toNat + n == 0 })

/-- A codec's answer as a waveform: `ERR_EXTERNAL` with the command word unless every element is a valid sample (R141). -/
def validWave (w : Word) : Option (List F32) → Except Raise (List F32)
  | none => .error { code := .external, info := w }
  | some l => if l.all F32.isSample then .ok l else .error { code := .external, info := w }

/-- `<scheme>.MOD` with command word `w` (R132, R136, R141). -/
def modBody (E : Env R D) (sch : Scheme) (w : Word) : Cmd := fun s =>
  match s.checkScheme sch .modulate w with
  | .error r => .error r
  | .ok _ =>
    let b := s.bits
    match need (!b.isEmpty) .emptyInput 0x64 with
    | .error r => .error r
    | .ok _ =>
      match sch with
      | .fsk => s.outWave E (b.length * s.sps) (fskWave s E.arith b)
      | .qpsk =>
        match need (decide (b.length % 2 = 0)) .length b.length with
        | .error r => .error r
        | .ok _ => s.outWave E (b.length / 2 * s.sps) (qpskWave s E.arith b)
      | .tb =>
        match validWave w (E.tbMod b s.rate.toNat s.symRate.toNat) with
        | .error r => .error r
        | .ok l => s.outWave E l.length l

/-! ## Demodulation -/

/-- `nWin(wv, off)` (R131). -/
def nWin (sps : Nat) (wv : List F32) (off : Nat) : Nat := if off ≤ wv.length then (wv.length - off) / sps else 0

/-- `win(wv, off, j)` (R131). -/
def win (sps : Nat) (wv : List F32) (off j : Nat) : List F32 := slice wv (off + j * sps) (off + (j + 1) * sps)

/-- The windows of a waveform at an offset, in order (R131). -/
def windows (sps : Nat) (wv : List F32) (off : Nat) : List (List F32) :=
  (List.range (nWin sps wv off)).map (win sps wv off)

/-- The bit of a window: 1 when the power at `f1` is strictly greater (R134; a tie gives 0, D9). -/
def fskBit (s : State) (A : Arith R) (w : List F32) : Bool :=
  A.gt (detect A s.impl.roundTie w (s.fskFreq A true) s.rate.toNat)
    (detect A s.impl.roundTie w (s.fskFreq A false) s.rate.toNat)

/-- `fskDem(wv, Fs, off)` (R134). -/
def fskDem (s : State) (A : Arith R) (wv : List F32) (off : Nat) : Bits := (windows s.sps wv off).map (fskBit s A)

/-- The first of the keys 1, 2, 3 that beats the best so far replaces it, starting from key 0 (R137; D9). -/
def argMax (A : Arith R) (p : Nat → R) : Nat :=
  [1, 2, 3].foldl (fun best k => if A.gt (p k) (p best) then k else best) 0

/-- The two bits of a window: the winning key's characters (R137). -/
def qpskPair (s : State) (A : Arith R) (w : List F32) : Bits :=
  bitsOfNat 2 (argMax A fun k => detect A s.impl.roundTie w (s.qpskFreq A k) s.rate.toNat)

/-- `qpskDem(wv, Fs, off)` (R137). -/
def qpskDem (s : State) (A : Arith R) (wv : List F32) (off : Nat) : Bits :=
  (windows s.sps wv off).flatMap (qpskPair s A)

/-- `dem_s(wv, Fs, off)`; a codec that answers no bit sequence raises `ERR_EXTERNAL` with the command word (R134, R137,
R142; 60_exceptions.md R185, R193). -/
def demodulate (E : Env R D) (s : State) (sch : Scheme) (w : Word) (wv : List F32) (off : Nat) : Except Raise Bits :=
  match sch with
  | .fsk => .ok (fskDem s E.arith wv off)
  | .qpsk => .ok (qpskDem s E.arith wv off)
  | .tb =>
    match E.tbDem wv s.rate.toNat s.symRate.toNat off with
    | none => .error { code := .external, info := w }
    | some b => .ok b

/-- `<scheme>.DEM` with command word `w` (R134, R137, R142). -/
def demBody (E : Env R D) (sch : Scheme) (w : Word) : Cmd := fun s =>
  match s.checkScheme sch .demodulate w with
  | .error r => .error r
  | .ok _ =>
    match s.waveform with
    | .error r => .error r
    | .ok wv =>
      match demodulate E s sch w wv s.offset.toNat with
      | .error r => .error r
      | .ok b => s.outBits b (Flags.written b)

/-- `decode_s(wv, Fs, off)`: demodulate, then strip the frame (R139; 90_conflicts.md C1). -/
def decodeAt (E : Env R D) (s : State) (sch : Scheme) (w : Word) (wv : List F32) (off : Nat) :
    Except Raise (Bits × Bool) :=
  match demodulate E s sch w wv off with
  | .error r => .error r
  | .ok b => .ok (unwrapFrame s.hamDSize b)

/-- `<scheme>.DECODE` with command word `w` (R139). -/
def decodeBody (E : Env R D) (sch : Scheme) (w : Word) : Cmd := fun s =>
  match s.checkScheme sch .framed w with
  | .error r => .error r
  | .ok _ =>
    match s.waveform with
    | .error r => .error r
    | .ok wv =>
      match decodeAt E s sch w wv s.offset.toNat with
      | .error r => .error r
      | .ok p => s.outBits p.1 (Flags.search p.1 p.2)

/-! ## The commands -/

/-- `FSK.MOD` (R132). -/
def execFskMod (s : State) : Host.Outcome State Fault Refusal :=
  .next (s.run (some .bit) (modBody s.env .fsk (encode .fskMod)))

/-- `QPSK.MOD` (R136). -/
def execQpskMod (s : State) : Host.Outcome State Fault Refusal :=
  .next (s.run (some .bit) (modBody s.env .qpsk (encode .qpskMod)))

/-- `TB.MOD` (R141). -/
def execTbMod (s : State) : Host.Outcome State Fault Refusal :=
  .next (s.run (some .bit) (modBody s.env .tb (encode .tbMod)))

/-- `FSK.DEM` (R134). -/
def execFskDem (s : State) : Host.Outcome State Fault Refusal :=
  .next (s.run (some .samp) (demBody s.env .fsk (encode .fskDem)))

/-- `QPSK.DEM` (R137). -/
def execQpskDem (s : State) : Host.Outcome State Fault Refusal :=
  .next (s.run (some .samp) (demBody s.env .qpsk (encode .qpskDem)))

/-- `TB.DEM` (R142). -/
def execTbDem (s : State) : Host.Outcome State Fault Refusal :=
  .next (s.run (some .samp) (demBody s.env .tb (encode .tbDem)))

/-- `FSK.DECODE` (R139). -/
def execFskDecode (s : State) : Host.Outcome State Fault Refusal :=
  .next (s.run (some .samp) (decodeBody s.env .fsk (encode .fskDecode)))

/-- `QPSK.DECODE` (R139). -/
def execQpskDecode (s : State) : Host.Outcome State Fault Refusal :=
  .next (s.run (some .samp) (decodeBody s.env .qpsk (encode .qpskDecode)))

/-- `TB.DECODE` (R139). -/
def execTbDecode (s : State) : Host.Outcome State Fault Refusal :=
  .next (s.run (some .samp) (decodeBody s.env .tb (encode .tbDecode)))

end Sys2Proof.Machine
end

