-- ==== Sys2Proof/Machine/Sync.lean ====
section
/-!
DEFINITION. The offset synchronizer: `FSK.SYNC`, `QPSK.SYNC`, `TB.SYNC` (46_offset_sync.md R160 to R168).
-/

namespace Sys2Proof.Machine

variable {R D : Type}

/-- The scan over the offsets still to try, `valid` being the valid ones so far, ascending. An offset is valid when the
decode there is non-empty (R161). With `exhaustive` false a failing offset after a valid one ends the scan (R162);
with it true every offset is tried (R163). -/
def scanOffsets (dec : Nat → Except Raise (Bits × Bool)) (exhaustive : Bool) :
    List Nat → List Nat → Except Raise (List Nat)
  | [], valid => .ok valid
  | off :: rest, valid =>
    match dec off with
    | .error r => .error r
    | .ok p =>
      if !p.1.isEmpty then scanOffsets dec exhaustive rest (valid ++ [off])
      else if !exhaustive && !valid.isEmpty then .ok valid
      else scanOffsets dec exhaustive rest valid

/-- The arithmetic mean, rounded down (R164). -/
def meanOffset (valid : List Nat) : Nat := valid.sum / valid.length

/-- The writes of `SYNC` and its completion (R160). -/
def State.outSync (s : State) (p : Bits × Bool) (m n : Nat) : Except Raise State :=
  { s with syncOff := BitVec.ofNat 32 m, syncCnt := BitVec.ofNat 32 n }.outBits p.1 (Flags.search p.1 p.2)

/-- `<scheme>.SYNC` with command word `w` (R160). -/
def syncBody (E : Env R D) (sch : Scheme) (w : Word) : Cmd := fun s =>
  match s.checkScheme sch .framed w with
  | .error r => .error r
  | .ok _ =>
    match s.waveform with
    | .error r => .error r
    | .ok wv =>
      match scanOffsets (decodeAt E s sch w wv) s.syncX (List.range s.sps) [] with
      | .error r => .error r
      | .ok [] => s.outSync ([], false) 0 0
      | .ok (v :: rest) =>
        match decodeAt E s sch w wv (meanOffset (v :: rest)) with
        | .error r => .error r
        | .ok p => s.outSync p (meanOffset (v :: rest)) (v :: rest).length

/-- `FSK.SYNC` (R160). -/
def execFskSync (s : State) : Host.Outcome State Fault Refusal :=
  .next (s.run (some .samp) (syncBody s.env .fsk (encode .fskSync)))

/-- `QPSK.SYNC` (R160). -/
def execQpskSync (s : State) : Host.Outcome State Fault Refusal :=
  .next (s.run (some .samp) (syncBody s.env .qpsk (encode .qpskSync)))

/-- `TB.SYNC` (R160). -/
def execTbSync (s : State) : Host.Outcome State Fault Refusal :=
  .next (s.run (some .samp) (syncBody s.env .tb (encode .tbSync)))

end Sys2Proof.Machine
end

