-- ==== Sys2Proof/Machine/System.lean ====
section
/-!
DEFINITION. The system commands `NOP`, `RESET`, `CLRERR` (47_noise_and_system.md R178 to R180).
-/

namespace Sys2Proof.Machine

/-- `NOP`: `complete()`; refused while a fault is pending like every ordinary command (R178). -/
def execNop (s : State) : Host.Outcome State Fault Refusal :=
  .next (s.run none fun t => .ok (t.complete {}))

/-- `RESET`: accepted while `ERR = 1`, no check but decoding; `DONE` is not set (R179; 60_exceptions.md R197). -/
def execReset (s : State) : Host.Outcome State Fault Refusal := .next s.restart

/-- `CLRERR`: accepted while `ERR = 1`; clears the fault and completes (R180; 60_exceptions.md R197, R198). -/
def execClrErr (s : State) : Host.Outcome State Fault Refusal := .next (s.issued.clearErr.complete {})

end Sys2Proof.Machine
end

