-- ==== Sys2Proof/Machine/Dispatch.lean ====
section
/-!
DEFINITION. Which meaning a command has: one arm a constructor, each one call.
-/

namespace Sys2Proof.Machine

def exec (i : Instr) (s : State) : Host.Outcome State Fault Refusal :=
  match i with
  | .nop => Sys2Proof.Machine.execNop s
  | .reset => Sys2Proof.Machine.execReset s
  | .clrErr => Sys2Proof.Machine.execClrErr s
  | .bytes2Bits => Sys2Proof.Machine.execBytes2Bits s
  | .bits2BytesT => Sys2Proof.Machine.execBits2BytesT s
  | .bits2BytesS => Sys2Proof.Machine.execBits2BytesS s
  | .hamEnc => Sys2Proof.Machine.execHamEnc s
  | .hamDec => Sys2Proof.Machine.execHamDec s
  | .rsEnc => Sys2Proof.Machine.execRsEnc s
  | .rsDec => Sys2Proof.Machine.execRsDec s
  | .frmMarkS => Sys2Proof.Machine.execFrmMarkS s
  | .frmMarkE => Sys2Proof.Machine.execFrmMarkE s
  | .frmWrap => Sys2Proof.Machine.execFrmWrap s
  | .frmStripL => Sys2Proof.Machine.execFrmStripL s
  | .frmStripT => Sys2Proof.Machine.execFrmStripT s
  | .frmUnwrap => Sys2Proof.Machine.execFrmUnwrap s
  | .fskMod => Sys2Proof.Machine.execFskMod s
  | .qpskMod => Sys2Proof.Machine.execQpskMod s
  | .tbMod => Sys2Proof.Machine.execTbMod s
  | .fskDem => Sys2Proof.Machine.execFskDem s
  | .qpskDem => Sys2Proof.Machine.execQpskDem s
  | .tbDem => Sys2Proof.Machine.execTbDem s
  | .fskDecode => Sys2Proof.Machine.execFskDecode s
  | .qpskDecode => Sys2Proof.Machine.execQpskDecode s
  | .tbDecode => Sys2Proof.Machine.execTbDecode s
  | .goertzel => Sys2Proof.Machine.execGoertzel s
  | .fskSync => Sys2Proof.Machine.execFskSync s
  | .qpskSync => Sys2Proof.Machine.execQpskSync s
  | .tbSync => Sys2Proof.Machine.execTbSync s
  | .noiseAdd => Sys2Proof.Machine.execNoiseAdd s

end Sys2Proof.Machine
end

