-- ==== Sys2Proof/Machine/Access.lean ====
section
/-!
DEFINITION. What one host access does: the register accesses and the issue of a command (20_memory.md R45), the buffer
accesses (R46), the bus windows (R41) and the reset input (70_reset_and_hazards.md R210).
-/

namespace Sys2Proof.Machine

/-- A write of `w` to `CMD`: the word is decoded by R62 alone and the command runs, or it is illegal (10_state.md R13;
60_exceptions.md R192). -/
def State.issue (s : State) (w : Word) : Host.Outcome State Fault Refusal :=
  match decode w with
  | .ok i => exec i s
  | .error _ => .next (s.illegal w)

/-- `HostWriteReg(off, w)` (R45). -/
def State.hostWriteReg (s : State) (off : Nat) (w : Word) : Host.Outcome State Fault Refusal :=
  if off = 0 then s.issue w else .next (s.writeReg off w)

/-- The value of a buffer element as the bus shows it: a byte, a bit or a sample in the low bits, the rest 0; an index
at or above the capacity reads 0 (20_memory.md R41, R46; 93 U19). -/
def State.readElem (s : State) (b : BufId) (i : Nat) : Word :=
  if i < s.capacity b then
    match b with
    | .byte => (s.byteAt i).setWidth 32
    | .bit => (BitVec.ofBool (s.bitAt i)).setWidth 32
    | .samp => s.sampleAt i
  else 0

/-- `HostWriteBuf(BYTEBUF, i, v)`: the element only, never the length; an index at or above the capacity is ignored
(R41, R46; 93 U19). -/
def State.writeByte (s : State) (i : Nat) (v : Byte) : State :=
  if i < s.capacity .byte then { s with byteBuf := s.byteBuf.write i v } else s

/-- `HostWriteBuf(BITBUF, i, v)`. -/
def State.writeBit (s : State) (i : Nat) (v : Bool) : State :=
  if i < s.capacity .bit then { s with bitBuf := s.bitBuf.write i v } else s

/-- `HostWriteBuf(SAMPBUF, i, v)`: the sample is not checked here (R46). -/
def State.writeSample (s : State) (i : Nat) (v : F32) : State :=
  if i < s.capacity .samp then { s with sampBuf := s.sampBuf.write i v } else s

/-- The host takes the answer of a read; the block is unchanged (R45, R46, R49). -/
def State.answer (s : State) (w : Word) : State := { s with reply := w }

/-- A write at a byte offset from the block's base (R41): in the `BYTEBUF` window the low byte, in the `BITBUF` window
bit 0, in the `SAMPBUF` window the word; elsewhere outside the register space, nothing. -/
def State.hostBusWrite (s : State) (addr : Nat) (w : Word) : Host.Outcome State Fault Refusal :=
  if addr < regSpaceEnd then s.hostWriteReg addr w
  else if 0x100000 ≤ addr ∧ addr < 0x200000 then .next (s.writeByte (addr - 0x100000) (w.setWidth 8))
  else if 0x200000 ≤ addr ∧ addr < 0x300000 then .next (s.writeBit (addr - 0x200000) (w.getLsbD 0))
  else if 0x1000000 ≤ addr ∧ addr < 0x2000000 then .next (s.writeSample ((addr - 0x1000000) / 4) w)
  else .next s

/-- A read at a byte offset from the block's base (R41); an unassigned offset reads 0. -/
def State.busValue (s : State) (addr : Nat) : Word :=
  if addr < regSpaceEnd then s.readReg addr
  else if 0x100000 ≤ addr ∧ addr < 0x200000 then s.readElem .byte (addr - 0x100000)
  else if 0x200000 ≤ addr ∧ addr < 0x300000 then s.readElem .bit (addr - 0x200000)
  else if 0x1000000 ≤ addr ∧ addr < 0x2000000 then s.readElem .samp ((addr - 0x1000000) / 4)
  else 0

/-- The accesses a host may make while a command executes: a read of `STATUS` (20_memory.md R47), and the reset input. -/
def HostAccess.whileBusy : HostAccess → Bool
  | .readReg off | .busRead off => off == 0x04
  | .hardReset => true
  | .writeReg _ _ | .writeByte _ _ | .writeBit _ _ | .writeSample _ _ | .readBuf _ _ | .busWrite _ _ => false

/-- The offset an access names, for the refusal's record. -/
def HostAccess.addr : HostAccess → Nat
  | .writeReg off _ | .readReg off | .busWrite off _ | .busRead off => off
  | .writeByte i _ | .writeBit i _ | .writeSample i _ | .readBuf _ i => i
  | .hardReset => 0

/-- One host access (R45, R46; 93 U2, U3). -/
def State.access (s : State) (a : HostAccess) : Host.Outcome State Fault Refusal :=
  if !a.wf then .refused (.misalignedAccess (HostAccess.addr a))
  else if s.status.busy && !HostAccess.whileBusy a then .refused .accessWhileBusy
  else
    match a with
    | .writeReg off w => s.hostWriteReg off w
    | .readReg off => .next (s.answer (s.readReg off))
    | .writeByte i v => .next (s.writeByte i v)
    | .writeBit i v => .next (s.writeBit i v)
    | .writeSample i v => .next (s.writeSample i v)
    | .readBuf b i => .next (s.answer (s.readElem b i))
    | .busWrite addr w => s.hostBusWrite addr w
    | .busRead addr => .next (s.answer (s.busValue addr))
    | .hardReset => .next s.restart

end Sys2Proof.Machine
end

