-- ==== Sys2Proof/Machine/Step.lean ====
section
/-!
DEFINITION. One step: the next host access, if there is one. Nothing else happens in the block (60_exceptions.md R190).
-/

namespace Sys2Proof.Machine

/-- The next host access is taken off the list and made; with none left nothing happens (10_state.md R12; log 1). -/
def step (s : State) : Host.Outcome State Fault Refusal :=
  match s.host with
  | [] => .next s
  | a :: rest => { s with host := rest }.access a

/-- The state in which the host's next access is a write of the word `w` to `CMD`: the block fetches no instructions,
a command exists only as such a write (10_state.md R12, R13; log 1). -/
def State.withFetchWord (s : State) (nbits w : Nat) : State :=
  { s with host := .writeReg 0 (BitVec.ofNat 32 (w % 2 ^ nbits)) :: s.host }

end Sys2Proof.Machine
end

