-- ==== Sys2Proof/Machine/Reference.lean ====
section
/-!
DEFINITION. The reference `NUMERICS`: the real numbers (10_state.md R29, "the *reference* semantics"; D25). The machine
does not run on it (`Config.numerics` is left open); the rules about the exact detector are stated of it.
-/

/-- The `toF32 : Real -> F32` of a `NUMERICS` (10_state.md R29). -/
noncomputable def Sys2Proof.Numerics.toF32 (N : Sys2Proof.Numerics) : ℝ → Sys2Proof.F32 := N.lawful.choose

namespace Sys2Proof.Machine

/-- `round` on the reals: the nearest natural, an exact half as `ROUND_TIE` says (45_goertzel.md R151). -/
noncomputable def roundReal (tie : RoundTie) (x : ℝ) : ℕ :=
  if x - (⌊x⌋₊ : ℝ) < 1 / 2 then ⌊x⌋₊
  else if 1 / 2 < x - (⌊x⌋₊ : ℝ) then ⌊x⌋₊ + 1
  else match tie with
    | .halfEven => if ⌊x⌋₊ % 2 = 0 then ⌊x⌋₊ else ⌊x⌋₊ + 1
    | .halfAway => ⌊x⌋₊ + 1

/-- Real arithmetic, with `toF32` the way results are stored. -/
noncomputable def realArith (toF32 : ℝ → F32) : Arith ℝ where
  val := fun x => (F32.rat x : ℝ)
  ofNat := fun n => (n : ℝ)
  toF32 := toF32
  cos2pi := fun x => Real.cos (2 * Real.pi * x)
  sin2pi := fun x => Real.sin (2 * Real.pi * x)
  sqrt := Real.sqrt
  add := fun a b => a + b
  sub := fun a b => a - b
  mul := fun a b => a * b
  div := fun a b => a / b
  gt := fun a b => decide (b < a)
  roundInt := roundReal

/-- The real numbers as the numbers of the noise injector. -/
noncomputable def realNumbers (toF32 : ℝ → F32) : RealOps ℝ where
  val := fun x => (F32.rat x : ℝ)
  add := fun a b => a + b
  gt := fun a b => decide (b < a)
  toF32 := toF32

/-- Bin k of the N-point discrete Fourier transform of a window (45_goertzel.md R153). -/
noncomputable def dftBin (xs : List ℝ) (k : ℕ) : ℂ :=
  ∑ n : Fin xs.length, (xs[n] : ℂ) * Complex.exp (-(2 * Real.pi * Complex.I * k * (n : ℕ) / xs.length))

/-- The window `A·sin(2π·k0·n/N + φ)`, n = 0 .. N-1 (45_goertzel.md R156). -/
noncomputable def sineWindow (n : ℕ) (amp : ℝ) (k0 : ℕ) (phase : ℝ) : List ℝ :=
  (List.range n).map fun j => amp * Real.sin (2 * Real.pi * k0 * j / n + phase)

end Sys2Proof.Machine
end

