-- ==== Sys2Proof/Safety.lean ====
section
/-!
DEFINITION. The terms the claims are stated in: when a command may complete, how it ended, what it left unchanged, the
fault table of 60_exceptions.md R187, and the invariant of the machine.
-/

namespace Sys2Proof.Machine

/-! ## Before a command -/

/-- No fault is pending and the implementation's parameters are in the spec's ranges (60_exceptions.md R197; D35). -/
abbrev State.Ready (s : State) : Prop := s.status.err = false ∧ s.impl.ok = true

/-- A buffer's length register is within its capacity (60_exceptions.md R192 step 3). -/
abbrev State.Fits (s : State) (b : BufId) : Prop := s.lengthOf b ≤ s.capacity b

/-- `HAM_DSIZE` is supported (41_hamming.md R90). -/
abbrev State.HamOk (s : State) : Prop := s.hamDSize = 4 ∨ s.hamDSize = 8

/-- `RATE > 0` and `0 < SYMRATE <= RATE` (70_reset_and_hazards.md R215). -/
abbrev State.RatesOk (s : State) : Prop := 0 < s.rate.toNat ∧ 0 < s.symRate.toNat ∧ s.symRate.toNat ≤ s.rate.toNat

/-- The scheme's frequency registers are usable, or its codec is attached (70_reset_and_hazards.md R215). -/
abbrev State.SchemeOk (s : State) : Scheme → Prop
  | .fsk => F32.isPositive s.fskF0 = true ∧ F32.isPositive s.fskF1 = true
  | .qpsk =>
    (F32.isPositive s.qpskBase = true ∧ ∀ k < 4, F32.isPositive (s.qpskMult k) = true) ∧
      ∀ j < 4, ∀ k < j, F32.sameValue (s.qpskMult j) (s.qpskMult k) = false
  | .tb => s.impl.tbPresent = true

/-- `LEVEL` is finite and >= 0 (10_state.md R19). -/
abbrev State.LevelOk (s : State) : Prop := F32.isNonneg s.level = true

/-- Every element of the waveform is a valid sample (20_memory.md R54). -/
abbrev State.SamplesOk (s : State) : Prop := ∀ k < s.sampLen.toNat, F32.isSample (s.sampleAt k) = true

/-- What every encoder needs (70_reset_and_hazards.md R215). -/
abbrev State.ModReady (s : State) (sch : Scheme) : Prop :=
  s.Ready ∧ s.Fits .bit ∧ 0 < s.bitLen.toNat ∧ s.RatesOk ∧ s.SchemeOk sch ∧ s.LevelOk

/-- What every demodulator needs (70_reset_and_hazards.md R215). -/
abbrev State.DemReady (s : State) (sch : Scheme) : Prop :=
  s.Ready ∧ s.Fits .samp ∧ 0 < s.sampLen.toNat ∧ s.RatesOk ∧ s.SchemeOk sch ∧ s.SamplesOk

/-- The scheme and the role of a scheme command. -/
def Instr.scheme : Instr → Option (Scheme × Role)
  | .fskMod => some (.fsk, .modulate)
  | .qpskMod => some (.qpsk, .modulate)
  | .tbMod => some (.tb, .modulate)
  | .fskDem => some (.fsk, .demodulate)
  | .qpskDem => some (.qpsk, .demodulate)
  | .tbDem => some (.tb, .demodulate)
  | .fskDecode | .fskSync => some (.fsk, .framed)
  | .qpskDecode | .qpskSync => some (.qpsk, .framed)
  | .tbDecode | .tbSync => some (.tb, .framed)
  | .nop | .reset | .clrErr | .bytes2Bits | .bits2BytesT | .bits2BytesS | .hamEnc | .hamDec | .rsEnc | .rsDec
  | .frmMarkS | .frmMarkE | .frmWrap | .frmStripL | .frmStripT | .frmUnwrap | .goertzel | .noiseAdd => none

/-- The buffer a command reads, the "in" column of 30_encoding.md R62. -/
def Instr.input : Instr → Option BufId
  | .bytes2Bits | .rsEnc | .rsDec => some .byte
  | .bits2BytesT | .bits2BytesS | .hamEnc | .hamDec | .frmWrap | .frmStripL | .frmStripT | .frmUnwrap
  | .fskMod | .qpskMod | .tbMod => some .bit
  | .fskDem | .qpskDem | .tbDem | .fskDecode | .qpskDecode | .tbDecode | .goertzel | .fskSync | .qpskSync | .tbSync
  | .noiseAdd => some .samp
  | .nop | .reset | .clrErr | .frmMarkS | .frmMarkE => none

/-- What a scheme command needs of the registers (70_reset_and_hazards.md R215). -/
def State.SchemeConfigOk (s : State) (sch : Scheme) : Role → Prop
  | .modulate => s.RatesOk ∧ s.SchemeOk sch ∧ s.LevelOk
  | .demodulate => s.RatesOk ∧ s.SchemeOk sch
  | .framed => s.RatesOk ∧ s.SchemeOk sch ∧ s.HamOk

/-- A table row of `checkScheme`: what must hold, and what is raised if it does not. -/
abbrev SchemeCheck := Bool × ErrCode × Nat

/-- The pattern is finite and stands for a rational > 0. -/
def positiveRat (x : F32) : Bool := F32.isFinite x && decide (0 < F32.rat x)

/-- The two patterns stand for different rationals. -/
def differRat (x y : F32) : Bool := decide (F32.rat x ≠ F32.rat y)

/-- Step 1 of `checkScheme` (44_modulators.md R140). -/
def State.schemeStep1 (s : State) (w : Word) : Scheme → List SchemeCheck
  | .tb => [(s.impl.tbPresent, .external, w.toNat)]
  | .fsk | .qpsk => []

/-- Steps 2 and 3 (R140). -/
def State.schemeStep23 (s : State) : List SchemeCheck :=
  [(decide (0 < s.rate.toNat), .config, 0x40),
   (decide (0 < s.symRate.toNat ∧ s.symRate.toNat ≤ s.rate.toNat), .config, 0x14)]

/-- Step 4 (R140). -/
def State.schemeStep4 (s : State) : Scheme → List SchemeCheck
  | .fsk => [(positiveRat s.fskF0, .config, 0x18), (positiveRat s.fskF1, .config, 0x1C)]
  | .qpsk =>
    [(positiveRat s.qpskBase, .config, 0x20), (positiveRat s.qpskMult0, .config, 0x24),
     (positiveRat s.qpskMult1, .config, 0x28), (positiveRat s.qpskMult2, .config, 0x2C),
     (positiveRat s.qpskMult3, .config, 0x30), (differRat s.qpskMult1 s.qpskMult0, .config, 0x28),
     (differRat s.qpskMult2 s.qpskMult0, .config, 0x2C), (differRat s.qpskMult2 s.qpskMult1, .config, 0x2C),
     (differRat s.qpskMult3 s.qpskMult0, .config, 0x30), (differRat s.qpskMult3 s.qpskMult1, .config, 0x30),
     (differRat s.qpskMult3 s.qpskMult2, .config, 0x30)]
  | .tb => []

/-- Steps 5 and 6 (R140). -/
def State.schemeStep56 (s : State) : Role → List SchemeCheck
  | .modulate => [(F32.isFinite s.level && decide (0 ≤ F32.rat s.level), .config, 0x4C)]
  | .demodulate => []
  | .framed => [(decide (s.hamDSize = 4 ∨ s.hamDSize = 8), .config, 0x10)]

/-- The table of `checkScheme` in its order, for the command word `w` (44_modulators.md R140). -/
def State.schemeTable (s : State) (sch : Scheme) (role : Role) (w : Word) : List SchemeCheck :=
  s.schemeStep1 w sch ++ s.schemeStep23 ++ s.schemeStep4 sch ++ s.schemeStep56 role

/-! ## After a command -/

/-- Draw number `i` of this command, a real number: in uniform mode the nearest in [-level, level] to what the random
source answers, in Gaussian mode what it answers (47_noise_and_system.md R172). -/
noncomputable def State.drawOn (s : State) (i : Nat) : ℝ :=
  let d := Config.numerics.drawReal (Config.draw (s.draws + i))
  if s.noiseGauss then d else max (-(F32.rat s.level : ℝ)) (min (F32.rat s.level : ℝ) d)

/-- Sample `i` of a noisy waveform whose clean sample is `x`: unchanged at level 0, else `toF32(clamp(val(x) + d_i))`
with the real sum (47_noise_and_system.md R170, R173, R174). -/
noncomputable def State.noiseOn (s : State) (i : Nat) (x : F32) : F32 :=
  if F32.units s.level = 0 then x
  else Config.numerics.toF32 (max (-1) (min 1 ((F32.rat x : ℝ) + s.drawOn i)))

/-- Sample `k` of a tone of frequency `f`: `toF32(1 · sin(2π · f · k / Fs))` in the operations of `NUMERICS`
(44_modulators.md R133). -/
def State.toneAt (s : State) (f : Config.numerics.Num) (k : Nat) : F32 :=
  let A := Config.numerics.arith
  A.toF32 (A.mul (A.val F32.one) (A.sin2pi (A.div (A.mul f (A.ofNat k)) (A.ofNat s.rate.toNat))))

/-- It completed with these result flags: `DONE = 1`, `BUSY = 0`, the rest of `STATUS` and `ERRINFO` as before (R21). -/
abbrev Ended (s t : State) (f : Flags) : Prop := t.status = s.status.complete f ∧ t.errInfo = s.errInfo

/-- The state a fault leaves: only `ERR`, `ERRCODE`, `BUSY`, `DONE` and `ERRINFO` differ (60_exceptions.md R195, R196). -/
def State.faulted (s : State) (code : ErrCode) (info : Nat) : State :=
  { s with
    status := { s.status with busy := false, done := false, err := true, errCode := code }
    errInfo := BitVec.ofNat 32 info }

/-- Every configuration and operand register, and the implementation, are as before. -/
abbrev SameOperands (s t : State) : Prop :=
  t.cfg = s.cfg ∧ t.symRate = s.symRate ∧ t.fskF0 = s.fskF0 ∧ t.fskF1 = s.fskF1 ∧ t.qpskBase = s.qpskBase ∧
    t.qpskMult0 = s.qpskMult0 ∧ t.qpskMult1 = s.qpskMult1 ∧ t.qpskMult2 = s.qpskMult2 ∧ t.qpskMult3 = s.qpskMult3 ∧
    t.pad = s.pad ∧ t.rate = s.rate ∧ t.offset = s.offset ∧ t.freq = s.freq ∧ t.level = s.level ∧ t.impl = s.impl

/-- `SYNCOFF` and `SYNCCNT` are as before. -/
abbrev SameSync (s t : State) : Prop := t.syncOff = s.syncOff ∧ t.syncCnt = s.syncCnt

/-- `BYTELEN` and every element of `BYTEBUF` are as before. -/
abbrev SameBytes (s t : State) : Prop := t.byteLen = s.byteLen ∧ ∀ i, t.byteAt i = s.byteAt i

/-- `BITLEN` and every element of `BITBUF` are as before. -/
abbrev SameBits (s t : State) : Prop := t.bitLen = s.bitLen ∧ ∀ i, t.bitAt i = s.bitAt i

/-- `SAMPLEN` and every element of `SAMPBUF` are as before. -/
abbrev SameSamples (s t : State) : Prop := t.sampLen = s.sampLen ∧ ∀ i, t.sampleAt i = s.sampleAt i

/-- The host's side is as before. -/
abbrev SameHost (s t : State) : Prop := t.host = s.host ∧ t.reply = s.reply

/-- Only `BYTEBUF` and `BYTELEN` are written, and no element beyond the stored ones unless the buffer got shorter. -/
abbrev WritesOnlyBytes (s t : State) : Prop :=
  SameOperands s t ∧ t.power = s.power ∧ SameSync s t ∧ SameBits s t ∧ SameSamples s t ∧ SameHost s t ∧
    t.draws = s.draws ∧
    (s.byteLen.toNat ≤ t.byteLen.toNat → ∀ i, t.byteLen.toNat ≤ i → t.byteAt i = s.byteAt i)

/-- Only `BITBUF` and `BITLEN` are written. -/
abbrev WritesOnlyBits (s t : State) : Prop :=
  SameOperands s t ∧ t.power = s.power ∧ SameSync s t ∧ SameBytes s t ∧ SameSamples s t ∧ SameHost s t ∧
    t.draws = s.draws ∧
    (s.bitLen.toNat ≤ t.bitLen.toNat → ∀ i, t.bitLen.toNat ≤ i → t.bitAt i = s.bitAt i)

/-- Only `SAMPBUF` and `SAMPLEN` are written, and `n` draws are taken if there is noise. -/
abbrev WritesOnlySamples (s t : State) (n : Nat) : Prop :=
  SameOperands s t ∧ t.power = s.power ∧ SameSync s t ∧ SameBytes s t ∧ SameBits s t ∧ SameHost s t ∧
    t.draws = s.draws + (if F32.units s.level = 0 then 0 else n) ∧
    (s.sampLen.toNat ≤ t.sampLen.toNat → ∀ i, t.sampLen.toNat ≤ i → t.sampleAt i = s.sampleAt i)

/-! ## Which command can raise which fault (60_exceptions.md R187) -/

/-- The `ERRINFO` values possible under `ERR_CONFIG`. -/
def Instr.configInfos (i : Instr) : List Nat :=
  match Instr.scheme i with
  | some (sch, role) =>
    [0x40, 0x14]
      ++ (match sch with
        | .fsk => [0x18, 0x1C]
        | .qpsk => [0x20, 0x24, 0x28, 0x2C, 0x30]
        | .tb => [])
      ++ (match role with
        | .modulate => [0x4C]
        | .demodulate => []
        | .framed => [0x10])
  | none =>
    match i with
    | .hamEnc | .hamDec | .frmMarkS | .frmMarkE | .frmWrap | .frmStripL | .frmStripT | .frmUnwrap => [0x10]
    | .goertzel => [0x40, 0x48]
    | .noiseAdd => [0x4C]
    | _ => []

/-- The `ERRINFO` values possible under `ERR_EMPTY_INPUT`. -/
def Instr.emptyInfos (i : Instr) : List Nat :=
  match Instr.scheme i, i with
  | some (_, .modulate), _ => [0x64]
  | some (_, _), _ | none, .goertzel => [0x68]
  | none, _ => []

/-- The `ERRINFO` values possible under `ERR_CAPACITY`. -/
def Instr.capacityInfos (i : Instr) : List Nat :=
  match Instr.scheme i, i with
  | some _, _ => [0x64, 0x68]
  | none, .bytes2Bits | none, .bits2BytesT | none, .bits2BytesS => [0x60, 0x64]
  | none, .hamEnc | none, .hamDec | none, .frmMarkS | none, .frmMarkE | none, .frmWrap | none, .frmStripL
  | none, .frmStripT | none, .frmUnwrap => [0x64]
  | none, .rsEnc | none, .rsDec => [0x60]
  | none, .goertzel | none, .noiseAdd => [0x68]
  | none, _ => []

/-- The commands that can raise `ERR_LENGTH`. -/
def Instr.raisesLength (i : Instr) : Bool := i == .bits2BytesS || i == .hamEnc || i == .rsEnc || i == .qpskMod

/-- The commands that read `SAMPBUF` and so can raise `ERR_SAMPLE`. -/
def Instr.raisesSample (i : Instr) : Bool :=
  match Instr.scheme i with
  | some (_, .modulate) => false
  | some _ => true
  | none => i == .goertzel || i == .noiseAdd

/-- The commands that can raise `ERR_EXTERNAL`. -/
def Instr.raisesExternal (i : Instr) : Bool :=
  match Instr.scheme i with
  | some (.tb, _) => true
  | _ => false

/-- R187's table: the command can raise the code with the detail word. -/
def Instr.mayRaise (i : Instr) (code : ErrCode) (info : Word) : Prop :=
  match code with
  | .none | .illegalCmd => False
  | .config => info.toNat ∈ Instr.configInfos i
  | .emptyInput => info.toNat ∈ Instr.emptyInfos i
  | .length => Instr.raisesLength i = true
  | .capacity => info.toNat ∈ Instr.capacityInfos i
  | .sample => Instr.raisesSample i = true
  | .external => Instr.raisesExternal i = true ∧ info = encode i

/-- The bits of `CFG` a command reads: `HAM_DSIZE` 7:0, `SYNCX` 8, `NOISE_GAUSS` 9 (10_state.md R24; the "Reads" of each
command's rule). -/
def Instr.cfgRead : Instr → Word
  | .hamEnc | .hamDec | .frmMarkS | .frmMarkE | .frmWrap | .frmStripL | .frmStripT | .frmUnwrap
  | .fskDecode | .qpskDecode | .tbDecode => 0x0FF
  | .fskSync | .qpskSync | .tbSync => 0x1FF
  | .fskMod | .qpskMod | .tbMod | .noiseAdd => 0x200
  | .nop | .reset | .clrErr | .bytes2Bits | .bits2BytesT | .bits2BytesS | .rsEnc | .rsDec | .fskDem | .qpskDem | .tbDem
  | .goertzel => 0

/-- The buffer a command writes, the "out" column of 30_encoding.md R62. -/
def Instr.output : Instr → Option BufId
  | .bytes2Bits | .hamEnc | .hamDec | .frmMarkS | .frmMarkE | .frmWrap | .frmStripL | .frmStripT | .frmUnwrap
  | .fskDem | .qpskDem | .tbDem | .fskDecode | .qpskDecode | .tbDecode | .fskSync | .qpskSync | .tbSync => some .bit
  | .bits2BytesT | .bits2BytesS | .rsEnc | .rsDec => some .byte
  | .fskMod | .qpskMod | .tbMod | .noiseAdd => some .samp
  | .nop | .reset | .clrErr | .goertzel => none

/-! ## The synchronizer's result (46_offset_sync.md R160 to R164) -/

/-- How `SYNC` ends with the pair `p` decoded at the mean offset `m` of `n` valid offsets: `ERR_CAPACITY` if the bits do
not fit, else they are stored with `SYNCOFF` and `SYNCCNT`, and nothing else but `BITBUF` is written (R160). -/
def SyncEnds (s t : State) (p : Bits × Bool) (m n : Nat) : Prop :=
  (s.impl.capBits < p.1.length → t = s.faulted .capacity 0x64) ∧
  (p.1.length ≤ s.impl.capBits →
    t.bits = p.1 ∧ t.syncOff.toNat = m ∧ t.syncCnt.toNat = n ∧ Ended s t { empty := p.1.isEmpty, found := p.2 } ∧
    SameOperands s t ∧ t.power = s.power ∧ SameBytes s t ∧ SameSamples s t ∧ SameHost s t ∧ t.draws = s.draws ∧
    (s.bitLen.toNat ≤ t.bitLen.toNat → ∀ i, t.bitLen.toNat ≤ i → t.bitAt i = s.bitAt i))

/-- What `SYNC` leaves, given the decode at each of the `sps` offsets: nothing valid; or, with `SYNCX = 0`, the first
run `a .. b` of valid offsets (R162), whose mean decodes with both markers found (R164); or, with `SYNCX = 1`, all
valid offsets (R163). -/
def SyncResult (s t : State) (sps : Nat) (dec : Nat → Bits × Bool) : Prop :=
  ((∀ o < sps, (dec o).1 = []) → SyncEnds s t ([], false) 0 0) ∧
  (s.syncX = false → ∀ a b, a ≤ b → b < sps → (∀ o < a, (dec o).1 = []) → (∀ o, a ≤ o → o ≤ b → (dec o).1 ≠ []) →
    (b + 1 < sps → (dec (b + 1)).1 = []) →
    SyncEnds s t (dec ((a + b) / 2)) ((a + b) / 2) (b - a + 1) ∧ (dec ((a + b) / 2)).2 = true) ∧
  (s.syncX = true → ∀ v, v = (List.range sps).filter (fun o => !(dec o).1.isEmpty) → v ≠ [] →
    SyncEnds s t (dec (v.sum / v.length)) (v.sum / v.length) v.length)

/-! ## Codes and framing -/

/-- A bit sequence with the bit at index `i` flipped. -/
def flipAt (b : Bits) (i : Nat) : Bits := b.set i (!b.getD i false)

/-- In how many positions two bit sequences of one length differ. -/
def bitDistance (a b : Bits) : Nat := (List.zipWith xor a b).count true

/-- The word is a Reed–Solomon codeword: it evaluates to 0 at α^0 .. α^7 (42_reed_solomon.md R103, R105). -/
abbrev IsCodeword (c : List Byte) : Prop := ∀ j < 8, polyEval c (alphaPow j) = 0

/-- A marker matches at index `i` of `b` (43_framing.md R118). -/
abbrev MatchesAt (d : Nat) (b : Bits) (k : Marker) (i : Nat) : Prop :=
  i + markerLen d ≤ b.length ∧ hamDec d (slice b i (i + markerLen d)) = some (rawMark k)

/-! ## The invariant -/

/-- The invariant of the machine: the buffers are in canonical form with no element beyond a capacity, the parameters
are in range, the reserved bits of `CFG` are 0 (10_state.md R24), `BUSY` is 0 (R20), `ERR`, `ERRCODE`, `ERRINFO` and
`DONE` agree (R20, R22; 60_exceptions.md R195, R197), and `SYNCOFF` is 0 when `SYNCCNT` is (R31). -/
abbrev State.Inv (s : State) : Prop :=
  s.impl.ok = true ∧
  (s.byteBuf.wf = true ∧ s.byteBuf.within s.impl.capBytes = true) ∧
  (s.bitBuf.wf = true ∧ s.bitBuf.within s.impl.capBits = true) ∧
  (s.sampBuf.wf = true ∧ s.sampBuf.within s.impl.capSamples = true) ∧
  s.cfg &&& ~~~cfgMask = 0 ∧
  s.status.busy = false ∧
  (s.status.err = false → s.status.errCode = .none ∧ s.errInfo = 0) ∧
  (s.status.err = true → s.status.errCode ≠ .none ∧ s.status.done = false) ∧
  (s.syncCnt = 0 → s.syncOff = 0)

end Sys2Proof.Machine
end

