-- ==== Sys2Proof/Certificates/Slice0/Obligations.lean ====
section
/-!
DEFINITION. The statements for the provers, in the order of the spec's files. Each docstring names the rules it rests on.
-/

section

open Sys2Proof Sys2Proof.Machine

/-! ## Encoding and issue -/

/-- The thirty rows of 30_encoding.md R62, each word written out, decode to their commands. -/
def Obligations.TableWordsDecode : Prop :=
  ∀ p ∈ ([(0x00000000, .nop), (0x00000001, .reset), (0x00000002, .clrErr), (0x00000010, .bytes2Bits),
      (0x00000011, .bits2BytesT), (0x00000111, .bits2BytesS), (0x00000020, .hamEnc), (0x00000021, .hamDec),
      (0x00000030, .rsEnc), (0x00000031, .rsDec), (0x00000040, .frmMarkS), (0x00000140, .frmMarkE),
      (0x00000041, .frmWrap), (0x00000042, .frmStripL), (0x00000043, .frmStripT), (0x00000044, .frmUnwrap),
      (0x00000050, .fskMod), (0x00000150, .qpskMod), (0x00000250, .tbMod), (0x00000051, .fskDem),
      (0x00000151, .qpskDem), (0x00000251, .tbDem), (0x00000052, .fskDecode), (0x00000152, .qpskDecode),
      (0x00000252, .tbDecode), (0x00000060, .goertzel), (0x00000070, .fskSync), (0x00000170, .qpskSync),
      (0x00000270, .tbSync), (0x00000080, .noiseAdd)] : List (Word × Instr)), decode p.1 = .ok p.2

/-- Decoding and encoding agree on every word and every command: a word decodes to a command exactly when it is that
command's one word; the word's fields are the command's `opcode` and `arg` and 0 (30_encoding.md R60, R62, R65). -/
def Obligations.DecodeExactlyInvertsEncode : Prop :=
  ∀ (w : Word) (i : Instr), decode w = .ok i ↔ w = encode i

/-- A word that is no command, written to `CMD` with no fault pending, raises `ERR_ILLEGAL_CMD` with the word and has
no other effect (30_encoding.md R64; `DONE` is cleared at issue, 60_exceptions.md R192). -/
def Obligations.IllegalWordFaults : Prop :=
  ∀ (w : Word) (s : State), (∀ i, w ≠ encode i) → s.status.err = false → s.status.busy = false →
    step { s with host := .writeReg 0 w :: s.host } = .next (s.faulted .illegalCmd w.toNat)

/-- A step makes the host's next access; when that is a write to `CMD` of a word that decodes to `i`, the step is
`exec i` of the state with the access taken off the list. With no access left a step changes nothing. While `BUSY` is 1
only a read of `STATUS` and the reset input have a meaning (10_state.md R12, R13; 60_exceptions.md R190;
93_implementation_defined.md U3). The list of accesses and the refusal are the model's choices (logs 1, 15). -/
def Obligations.StepRunsDecodedCommand : Prop :=
  (∀ (s : State) (w : Word) (i : Instr), decode w = .ok i → s.status.busy = false →
    step { s with host := .writeReg 0 w :: s.host } = exec i s ∧ step (s.withFetchWord 32 w.toNat) = exec i s) ∧
  (∀ s : State, s.host = [] → step s = .next s) ∧
  (∀ (s : State) (a : HostAccess), s.status.busy = true → a.wf = true → HostAccess.whileBusy a = false →
    step { s with host := a :: s.host } = .refused .accessWhileBusy)

/-- While a fault is pending every command but `RESET` and `CLRERR` is refused with no effect, and so is every illegal
word; the two are accepted; other accesses work as always (60_exceptions.md R197). -/
def Obligations.PendingFaultRefusesCommands : Prop :=
  ∀ s : State, s.status.err = true → s.status.busy = false →
    (∀ i, i ≠ .reset → i ≠ .clrErr → exec i s = .next s) ∧
    (∀ w, (∀ i, w ≠ encode i) → s.access (.writeReg 0 w) = .next s) ∧
    (∃ t, exec .reset s = .next t ∧ t.status = Status.clear ∧ t.errInfo = 0) ∧
    (∃ t, exec .clrErr s = .next t ∧ t.status.err = false ∧ t.status.done = true ∧ t.errInfo = 0) ∧
    (∀ off w, off ≠ 0 → off % 4 = 0 → s.access (.writeReg off w) = .next (s.writeReg off w)) ∧
    (∀ off, off % 4 = 0 → s.access (.readReg off) = .next { s with reply := s.readReg off }) ∧
    (∀ i v, s.access (.writeByte i v) = .next (s.writeByte i v)) ∧
    (∀ i v, s.access (.writeBit i v) = .next (s.writeBit i v)) ∧
    (∀ i v, s.access (.writeSample i v) = .next (s.writeSample i v)) ∧
    (∀ b i, s.access (.readBuf b i) = .next { s with reply := s.readElem b i })

/-! ## The host's accesses -/

/-- A register write sets that register alone, `CFG` through its mask, and a read-only or unassigned offset takes
nothing; a register read answers the register, 0 at an unassigned offset, and changes nothing of the block; a
misaligned register access is refused by name (20_memory.md R45, R49; 93_implementation_defined.md U2). The field `reply`
and the refusal are the model's choices (logs 2, 14). -/
def Obligations.HostRegisterAccess : Prop :=
  ∀ (s : State) (off : Nat) (w : Word), s.status.busy = false → off % 4 = 0 ∨ 0x6C ≤ off →
    (off ≠ 0 → ∃ t, step { s with host := .writeReg off w :: s.host } = .next t ∧
      (∀ o, t.readReg o =
        if o = off ∧ off ∈ [0x10, 0x14, 0x18, 0x1C, 0x20, 0x24, 0x28, 0x2C, 0x30, 0x34, 0x40, 0x44, 0x48, 0x4C, 0x60,
            0x64, 0x68] then
          (if off = 0x10 then w &&& 0x3FF else w)
        else s.readReg o) ∧
      t.byteBuf = s.byteBuf ∧ t.bitBuf = s.bitBuf ∧ t.sampBuf = s.sampBuf ∧ t.impl = s.impl ∧ SameHost s t) ∧
    step { s with host := .readReg off :: s.host } = .next { s with reply := s.readReg off } ∧
    (off ∈ [0x00, 0x38, 0x3C, 0x5C] ∨ 0x6C ≤ off → s.readReg off = 0) ∧
    (∀ o, o < 0x6C → o % 4 ≠ 0 →
      step { s with host := .readReg o :: s.host } = .refused (.misalignedAccess o) ∧
      step { s with host := .writeReg o w :: s.host } = .refused (.misalignedAccess o)) ∧
    (∀ o, o < 0x6C →
      step { s with host := .busRead o :: s.host } = step { s with host := .readReg o :: s.host } ∧
      step { s with host := .busWrite o w :: s.host } = step { s with host := .writeReg o w :: s.host })

/-- What each register reads as: the fields of `STATUS` at their bits with `RSSTAT` and `ERRCODE` as their codes, `CFG`
without its reserved bits, `CAPS`, and every other register as it stands (10_state.md R10, R20, R23, R24; 60_exceptions.md
R185). -/
def Obligations.RegistersReadTheirFields : Prop :=
  ∀ s : State,
    (let w := s.readReg 0x04;
      w.getLsbD 0 = s.status.busy ∧ w.getLsbD 1 = s.status.done ∧ w.getLsbD 2 = s.status.err ∧
      w.getLsbD 3 = s.status.empty ∧ w.getLsbD 4 = s.status.found ∧ w.getLsbD 7 = s.status.decFail ∧
      w.extractLsb' 5 2 = (match s.status.rsStat with
        | .none => 0
        | .ok => 1
        | .short => 2
        | .fail => 3) ∧
      w.extractLsb' 8 8 = (match s.status.errCode with
        | .none => 0
        | .illegalCmd => 1
        | .config => 2
        | .emptyInput => 3
        | .length => 4
        | .capacity => 5
        | .sample => 6
        | .external => 7) ∧
      w.extractLsb' 16 16 = 0) ∧
    [0x08, 0x0C, 0x10, 0x14, 0x18, 0x1C, 0x20, 0x24, 0x28, 0x2C, 0x30, 0x34, 0x40, 0x44, 0x48, 0x4C, 0x50, 0x54, 0x58,
      0x60, 0x64, 0x68].map s.readReg =
      [s.errInfo, if s.impl.tbPresent then 7 else 3, s.cfg &&& 0x3FF, s.symRate, s.fskF0, s.fskF1, s.qpskBase,
        s.qpskMult0, s.qpskMult1, s.qpskMult2, s.qpskMult3, s.pad, s.rate, s.offset, s.freq, s.level, s.power,
        s.syncOff, s.syncCnt, s.byteLen, s.bitLen, s.sampLen]

/-- A buffer write stores one element below the capacity and changes nothing else, no length register either; at or
above the capacity it is ignored; a read answers the element, 0 at or above the capacity; the bus windows reach the
same elements and an unassigned offset reads 0 and takes nothing (20_memory.md R41, R46). The field `reply` is the
model's choice (log 2). -/
def Obligations.HostBufferAccess : Prop :=
  ∀ s : State, s.status.busy = false →
    (∀ i v, ∃ t, step { s with host := .writeByte i v :: s.host } = .next t ∧
      step { s with host := .busWrite (0x100000 + i % 0x100000) (v.setWidth 32) :: s.host } =
        step { s with host := .writeByte (i % 0x100000) v :: s.host } ∧
      (∀ j, t.byteAt j = if j = i ∧ i < s.impl.capBytes then v else s.byteAt j) ∧ t = { s with byteBuf := t.byteBuf }) ∧
    (∀ i v, ∃ t, step { s with host := .writeBit i v :: s.host } = .next t ∧
      (∀ w : Word, w.getLsbD 0 = v →
        step { s with host := .busWrite (0x200000 + i % 0x100000) w :: s.host } =
          step { s with host := .writeBit (i % 0x100000) v :: s.host }) ∧
      (∀ j, t.bitAt j = if j = i ∧ i < s.impl.capBits then v else s.bitAt j) ∧ t = { s with bitBuf := t.bitBuf }) ∧
    (∀ i v, ∃ t, step { s with host := .writeSample i v :: s.host } = .next t ∧
      step { s with host := .busWrite (0x1000000 + 4 * (i % 0x400000)) v :: s.host } =
        step { s with host := .writeSample (i % 0x400000) v :: s.host } ∧
      (∀ j, t.sampleAt j = if j = i ∧ i < s.impl.capSamples then v else s.sampleAt j) ∧
      t = { s with sampBuf := t.sampBuf }) ∧
    (∀ b i, ∃ t, step { s with host := .readBuf b i :: s.host } = .next t ∧ t = { s with reply := t.reply } ∧
      t.reply = if i < s.capacity b then
          (match b with
          | .byte => (s.byteAt i).setWidth 32
          | .bit => if s.bitAt i then 1 else 0
          | .samp => s.sampleAt i)
        else 0) ∧
    (∀ i, i < 0x100000 →
      step { s with host := .busRead (0x100000 + i) :: s.host } = step { s with host := .readBuf .byte i :: s.host } ∧
      step { s with host := .busRead (0x200000 + i) :: s.host } = step { s with host := .readBuf .bit i :: s.host }) ∧
    (∀ i, i < 0x400000 →
      step { s with host := .busRead (0x1000000 + 4 * i) :: s.host } =
        step { s with host := .readBuf .samp i :: s.host }) ∧
    (∀ a w, a % 4 = 0 → (0x6C ≤ a ∧ a < 0x100000) ∨ (0x300000 ≤ a ∧ a < 0x1000000) ∨ 0x2000000 ≤ a →
      step { s with host := .busRead a :: s.host } = .next { s with reply := 0 } ∧
      step { s with host := .busWrite a w :: s.host } = .next s)

/-! ## System commands -/

/-- `NOP` completes and does nothing else; while a fault is pending it is refused (47_noise_and_system.md R178). -/
def Obligations.NopOnlyCompletes : Prop :=
  ∀ s : State,
    (s.status.err = false → exec .nop s = .next { s with status := { s.status with
      busy := false, done := true, empty := false, found := false, rsStat := .none, decFail := false } }) ∧
    (s.status.err = true → exec .nop s = .next s)

/-- `RESET`, and the hardware reset input alike, put every register at its reset value and leave every buffer element
unspecified; the parameters stay (47_noise_and_system.md R179; 70_reset_and_hazards.md R210 to R212). That an unspecified element reads as a fresh free
value, and that the model's own fields stay, are the model's choices (logs 1, 2, 7, 8). -/
def Obligations.ResetClearsEveryRegister : Prop :=
  ∀ s : State, ∃ t, exec .reset s = .next t ∧ s.access .hardReset = .next t ∧
    (∀ off, t.readReg off = if off = 0x0C then 3 + 4 * (if s.impl.tbPresent then 1 else 0) else 0) ∧
    t.status = Status.clear ∧ t.impl = s.impl ∧
    (∀ i, t.byteAt i = Config.freeByte (s.byteEpoch + 1) i) ∧
    (∀ i, t.bitAt i = Config.freeBit (s.bitEpoch + 1) i) ∧
    (∀ i, t.sampleAt i = Config.freeSample (s.sampEpoch + 1) i) ∧
    t.toBlock = Block.reset ∧
    SameHost s t ∧ t.draws = s.draws

/-- `CLRERR` clears the fault and completes, in every state, and does nothing else (47_noise_and_system.md R180). -/
def Obligations.ClrErrClearsFault : Prop :=
  ∀ s : State, exec .clrErr s = .next { s with
    status := { Status.clear with done := true }
    errInfo := 0 }

/-! ## Bit codec -/

/-- `BYTES2BITS`: bit `8j + i` of the result is bit `7 - i` of byte j (40_bit_codec.md R80). -/
def Obligations.BytesToBitsResult : Prop :=
  ∀ s : State, s.Ready → s.Fits .byte →
    (8 * s.byteLen.toNat ≤ s.impl.capBits → ∃ t, exec .bytes2Bits s = .next t ∧
      t.bitLen.toNat = 8 * s.byteLen.toNat ∧
      (∀ j < s.byteLen.toNat, ∀ i < 8, t.bitAt (8 * j + i) = (s.byteAt j).getLsbD (7 - i)) ∧
      Ended s t { empty := decide (s.byteLen.toNat = 0) } ∧ WritesOnlyBits s t) ∧
    (s.impl.capBits < 8 * s.byteLen.toNat → exec .bytes2Bits s = .next (s.faulted .capacity 0x64))

/-- `BITS2BYTES.T`: whole groups of eight bits become bytes, most significant bit first; the rest is dropped
(40_bit_codec.md R81). -/
def Obligations.BitsToBytesTruncates : Prop :=
  ∀ s : State, s.Ready → s.Fits .bit →
    (s.bitLen.toNat / 8 ≤ s.impl.capBytes → ∃ t, exec .bits2BytesT s = .next t ∧
      t.byteLen.toNat = s.bitLen.toNat / 8 ∧
      (∀ j < s.bitLen.toNat / 8, ∀ i < 8, (t.byteAt j).getLsbD (7 - i) = s.bitAt (8 * j + i)) ∧
      Ended s t { empty := decide (s.bitLen.toNat / 8 = 0) } ∧ WritesOnlyBytes s t) ∧
    (s.impl.capBytes < s.bitLen.toNat / 8 → exec .bits2BytesT s = .next (s.faulted .capacity 0x60))

/-- `BITS2BYTES.S`: a length that is no multiple of 8 raises `ERR_LENGTH`; otherwise as the truncating form
(40_bit_codec.md R82). -/
def Obligations.BitsToBytesStrict : Prop :=
  ∀ s : State, s.Ready → s.Fits .bit →
    (s.bitLen.toNat % 8 ≠ 0 → exec .bits2BytesS s = .next (s.faulted .length s.bitLen.toNat)) ∧
    (s.bitLen.toNat % 8 = 0 → s.bitLen.toNat / 8 ≤ s.impl.capBytes → ∃ t, exec .bits2BytesS s = .next t ∧
      t.byteLen.toNat = s.bitLen.toNat / 8 ∧
      (∀ j < s.bitLen.toNat / 8, ∀ i < 8, (t.byteAt j).getLsbD (7 - i) = s.bitAt (8 * j + i)) ∧
      Ended s t { empty := decide (s.bitLen.toNat = 0) } ∧ WritesOnlyBytes s t) ∧
    (s.bitLen.toNat % 8 = 0 → s.impl.capBytes < s.bitLen.toNat / 8 →
      exec .bits2BytesS s = .next (s.faulted .capacity 0x60))

/-- The two conversions undo each other, up to the dropped bits (40_bit_codec.md R83). -/
def Obligations.BitCodecRoundTrip : Prop :=
  (∀ b : List Byte, bitsToBytes (bytesToBits b) = b) ∧
  (∀ s : Bits, bytesToBits (bitsToBytes s) = s.take (8 * (s.length / 8)))

/-! ## Hamming -/

/-- The geometry and the layout of a coded block with its parity bits, for both sizes (30_encoding.md R68;
41_hamming.md R91, R92). -/
def Obligations.HammingBlockLayout : Prop :=
  (hamBLen 4 = 7 ∧ parityPositions 7 = [1, 2, 4] ∧ dataPositions 7 = [3, 5, 6, 7]) ∧
  (hamBLen 8 = 12 ∧ parityPositions 12 = [1, 2, 4, 8] ∧ dataPositions 12 = [3, 5, 6, 7, 9, 10, 11, 12]) ∧
  (∀ d1 d2 d3 d4 : Bool, hamEncBlock 4 [d1, d2, d3, d4] =
    [d1 ^^ d2 ^^ d4, d1 ^^ d3 ^^ d4, d1, d2 ^^ d3 ^^ d4, d2, d3, d4]) ∧
  (∀ d1 d2 d3 d4 d5 d6 d7 d8 : Bool, hamEncBlock 8 [d1, d2, d3, d4, d5, d6, d7, d8] =
    [d1 ^^ d2 ^^ d4 ^^ d5 ^^ d7, d1 ^^ d3 ^^ d4 ^^ d6 ^^ d7, d1, d2 ^^ d3 ^^ d4 ^^ d8, d2, d3, d4,
      d5 ^^ d6 ^^ d7 ^^ d8, d5, d6, d7, d8])

/-- `HAM.ENC`: each chunk of d bits becomes its coded block; the three faults (41_hamming.md R93). -/
def Obligations.HammingEncodeResult : Prop :=
  ∀ s : State, s.Ready → s.Fits .bit →
    let d := s.hamDSize
    let len := s.bitLen.toNat
    let n := hamBLen d
    (¬ s.HamOk → exec .hamEnc s = .next (s.faulted .config 0x10)) ∧
    (s.HamOk → len % d ≠ 0 → exec .hamEnc s = .next (s.faulted .length len)) ∧
    (s.HamOk → len % d = 0 → s.impl.capBits < len / d * n → exec .hamEnc s = .next (s.faulted .capacity 0x64)) ∧
    (s.HamOk → len % d = 0 → len / d * n ≤ s.impl.capBits → ∃ t, exec .hamEnc s = .next t ∧
      t.bitLen.toNat = len / d * n ∧
      (∀ c < len / d, slice t.bits (c * n) ((c + 1) * n) = hamEncBlock d (slice s.bits (c * d) ((c + 1) * d))) ∧
      Ended s t { empty := decide (len = 0) } ∧ WritesOnlyBits s t)

/-- `HAM.DEC`: each coded block becomes its d bits; a length that is no whole number of blocks gives an empty result
with `DECFAIL`, not a fault (41_hamming.md R95). And what a block, any block, decodes to: the syndrome is the exclusive
or of the positions that hold a 1; if it names a position of the block that bit is flipped, otherwise (0, or 13 to 15
for d = 8) nothing is; then the data positions are read (R94). -/
def Obligations.HammingDecodeResult : Prop :=
  (∀ s : State, s.Ready → s.Fits .bit →
      let d := s.hamDSize
      let len := s.bitLen.toNat
      let n := hamBLen d
      (¬ s.HamOk → exec .hamDec s = .next (s.faulted .config 0x10)) ∧
      (s.HamOk → len % n ≠ 0 → ∃ t, exec .hamDec s = .next t ∧ t.bitLen = 0 ∧
        Ended s t { empty := true, decFail := true } ∧ WritesOnlyBits s t) ∧
      (s.HamOk → len % n = 0 → ∃ t, exec .hamDec s = .next t ∧ t.bitLen.toNat = len / n * d ∧
        (∀ c < len / n, slice t.bits (c * d) ((c + 1) * d) = hamDecBlock d (slice s.bits (c * n) ((c + 1) * n))) ∧
        Ended s t { empty := decide (len = 0) } ∧ WritesOnlyBits s t)) ∧
  (∀ c ∈ ([(4, 7, [3, 5, 6, 7]), (8, 12, [3, 5, 6, 7, 9, 10, 11, 12])] : List (Nat × Nat × List Nat)),
    ∀ blk : Bits, blk.length = c.2.1 →
      let syn := ((List.range c.2.1).filter fun i => blk.getD i false).foldl (fun acc i => acc ^^^ (i + 1)) 0
      let fixed := if 1 ≤ syn ∧ syn ≤ c.2.1 then flipAt blk (syn - 1) else blk
      syndrome c.1 blk = syn ∧ hamDecBlock c.1 blk = c.2.2.map fun p => fixed.getD (p - 1) false)

/-- Decoding undoes encoding, one flipped bit in a block is located and corrected, and decoding is total on whole
numbers of blocks (41_hamming.md R94, R96 (a), (b), (e)). -/
def Obligations.HammingCorrectsOneError : Prop :=
  ∀ d, d = 4 ∨ d = 8 →
    (∀ s : Bits, s.length % d = 0 → hamDec d (hamEnc d s) = some s) ∧
    (∀ chunk : Bits, chunk.length = d → ∀ i < hamBLen d,
      syndrome d (flipAt (hamEncBlock d chunk) i) = i + 1 ∧ hamDecBlock d (flipAt (hamEncBlock d chunk) i) = chunk) ∧
    (∀ s : Bits, s.length % hamBLen d = 0 → ∃ r, hamDec d s = some r ∧ r.length = s.length / hamBLen d * d)

/-- Two flipped bits in a block give the syndrome `a ^ b` and always wrong data; the minimum distance of both codes is
3 (41_hamming.md R96 (c), (d)). -/
def Obligations.HammingTwoErrorsGiveWrongData : Prop :=
  ∀ d, d = 4 ∨ d = 8 →
    (∀ chunk : Bits, chunk.length = d → ∀ j < hamBLen d, ∀ i < j,
      syndrome d (flipAt (flipAt (hamEncBlock d chunk) i) j) = (i + 1) ^^^ (j + 1) ∧
      hamDecBlock d (flipAt (flipAt (hamEncBlock d chunk) i) j) ≠ chunk) ∧
    (∀ a b : Bits, a.length = d → b.length = d → a ≠ b → 3 ≤ bitDistance (hamEncBlock d a) (hamEncBlock d b)) ∧
    (∃ a b : Bits, a.length = d ∧ b.length = d ∧ bitDistance (hamEncBlock d a) (hamEncBlock d b) = 3)

/-! ## Reed–Solomon -/

/-- The generator's coefficients and the field's check values (42_reed_solomon.md R101, R102). -/
def Obligations.GeneratorAndFieldValues : Prop :=
  genPoly = [0x01, 0xFF, 0x0B, 0x51, 0x36, 0xEF, 0xAD, 0xC8, 0x18] ∧
  (List.range 9).map alphaPow = [0x01, 0x02, 0x04, 0x08, 0x10, 0x20, 0x40, 0x80, 0x1D] ∧ alphaPow 255 = 1 ∧
  gmul 0x80 0x02 = 0x1D ∧ gmul 0x53 0xCA = 0x8F ∧ gmul 0xFF 0xFF = 0xE2 ∧ gmul 0x02 0x8E = 1

/-- A body with its eight check bytes is a codeword; those of an all-zero body are zero (42_reed_solomon.md R103). -/
def Obligations.CheckBytesMakeCodeword : Prop :=
  (∀ body : List Byte, (rsEcc body).length = 8 ∧ IsCodeword (body ++ rsEcc body)) ∧
  (∀ n, rsEcc (List.replicate n 0) = List.replicate 8 0)

/-- `RS.ENC`: length prefix, message, check bytes; the two faults (42_reed_solomon.md R104; 30_encoding.md R69). -/
def Obligations.RsEncodeResult : Prop :=
  ∀ s : State, s.Ready → s.Fits .byte →
    let len := s.byteLen.toNat
    (245 < len → exec .rsEnc s = .next (s.faulted .length len)) ∧
    (len ≤ 245 → s.impl.capBytes < len + 10 → exec .rsEnc s = .next (s.faulted .capacity 0x60)) ∧
    (len ≤ 245 → len + 10 ≤ s.impl.capBytes → ∃ t, exec .rsEnc s = .next t ∧ t.byteLen.toNat = len + 10 ∧
      (t.byteAt 0).toNat = len / 256 ∧ (t.byteAt 1).toNat = len % 256 ∧
      (∀ j < len, t.byteAt (2 + j) = s.byteAt j) ∧
      t.bytes.drop (len + 2) = rsEcc (t.bytes.take (len + 2)) ∧
      Ended s t {} ∧ WritesOnlyBytes s t)

/-- What the correction returns is a codeword of the same length within distance 4; a codeword is returned as it is
(42_reed_solomon.md R105, the part that needs no uniqueness). -/
def Obligations.RsCorrectReturnsNearCodeword : Prop :=
  (∀ r c : List Byte, rsCorrect r = some c → c.length = r.length ∧ IsCodeword c ∧ distance c r ≤ 4) ∧
  (∀ r : List Byte, IsCodeword r → rsCorrect r = some r)

/-- The correction is bounded-distance decoding: it returns `c` exactly when `c` is a codeword that differs from the
received word in at most 4 positions (42_reed_solomon.md R105). -/
def Obligations.RsCorrectIsBoundedDistance : Prop :=
  ∀ r : List Byte, 10 ≤ r.length → r.length ≤ 255 → ∀ c : List Byte,
    rsCorrect r = some c ↔ (c.length = r.length ∧ IsCodeword c ∧ distance c r ≤ 4)

/-- `RS.DEC`: too short, too long, uncorrectable, a length prefix that claims too much, or the message; every outcome is
a tagged result (42_reed_solomon.md R106). -/
def Obligations.RsDecodeResult : Prop :=
  ∀ s : State, s.Ready → s.Fits .byte → ∃ t, exec .rsDec s = .next t ∧ WritesOnlyBytes s t ∧
    let r := s.bytes
    let n := s.byteLen.toNat
    (n < 10 → t.bytes = r ∧ Ended s t { rsStat := .short, empty := decide (n = 0) }) ∧
    (255 < n → t.bytes = r ∧ Ended s t { rsStat := .fail }) ∧
    (10 ≤ n → n ≤ 255 → rsCorrect r = none → t.bytes = r ∧ Ended s t { rsStat := .fail }) ∧
    (10 ≤ n → n ≤ 255 → ∀ c, rsCorrect r = some c →
      let len := (c.getD 0 0).toNat * 256 + (c.getD 1 0).toNat
      (n - 10 < len → t.bytes = r ∧ Ended s t { rsStat := .fail }) ∧
      (len ≤ n - 10 → t.bytes = slice c 2 (2 + len) ∧ Ended s t { rsStat := .ok, empty := decide (len = 0) }))

/-- `RS.DEC` after `RS.ENC` gives the message back with `RS_OK` (42_reed_solomon.md R107). -/
def Obligations.RsDecodeUndoesRsEncode : Prop :=
  ∀ s : State, s.Ready → s.byteLen.toNat ≤ 245 → s.byteLen.toNat + 10 ≤ s.impl.capBytes →
    ∃ t u, exec .rsEnc s = .next t ∧ exec .rsDec t = .next u ∧ u.bytes = s.bytes ∧ u.byteLen = s.byteLen ∧
      u.status.rsStat = .ok ∧ u.status.empty = decide (s.byteLen.toNat = 0) ∧ u.status.done = true

/-! ## Framing -/

/-- `FRM.MARK.S` and `FRM.MARK.E` write the coded marker of the size in use (43_framing.md R115, R116). -/
def Obligations.FrameMarkerBits : Prop :=
  ∀ s : State, s.Ready →
    ∀ c ∈ ([(.frmMarkS, 8, 24, 0x9A3C12), (.frmMarkE, 8, 24, 0xD03C85), (.frmMarkS, 4, 28, 0x4B0C02A),
        (.frmMarkE, 4, 28, 0x010E625)] : List (Instr × Nat × Nat × Nat)),
      (s.hamDSize = c.2.1 → c.2.2.1 ≤ s.impl.capBits → ∃ t, exec c.1 s = .next t ∧
        t.bits = bitsOfNat c.2.2.1 c.2.2.2 ∧ Ended s t {} ∧ WritesOnlyBits s t) ∧
      (s.hamDSize = c.2.1 → s.impl.capBits < c.2.2.1 → exec c.1 s = .next (s.faulted .capacity 0x64)) ∧
      (¬ s.HamOk → exec c.1 s = .next (s.faulted .config 0x10))

/-- `FRM.WRAP` puts the coded markers around the content (43_framing.md R117; 30_encoding.md R67). -/
def Obligations.FrameWrapResult : Prop :=
  ∀ s : State, s.Ready → s.Fits .bit →
    (¬ s.HamOk → exec .frmWrap s = .next (s.faulted .config 0x10)) ∧
    (s.HamOk → s.impl.capBits < s.bitLen.toNat + 2 * markerLen s.hamDSize →
      exec .frmWrap s = .next (s.faulted .capacity 0x64)) ∧
    (s.HamOk → s.bitLen.toNat + 2 * markerLen s.hamDSize ≤ s.impl.capBits → ∃ t, exec .frmWrap s = .next t ∧
      t.bits = codedMark s.hamDSize .start ++ s.bits ++ codedMark s.hamDSize .finish ∧
      Ended s t {} ∧ WritesOnlyBits s t)

/-- A window always decodes, and one that differs from the coded marker in at most one bit of each of its Hamming
blocks still matches, wherever it stands (43_framing.md R118). -/
def Obligations.DamagedMarkerStillMatches : Prop :=
  ∀ (d : Nat) (k : Marker) (pre w post : Bits), d = 4 ∨ d = 8 → w.length = markerLen d →
    (hamDec d w).isSome = true ∧
    ((∀ c < 16 / d, bitDistance (slice w (c * hamBLen d) ((c + 1) * hamBLen d))
        (slice (codedMark d k) (c * hamBLen d) ((c + 1) * hamBLen d)) ≤ 1) →
      MatchesAt d (pre ++ w ++ post) k pre.length)

/-- `FRM.STRIPL`: what follows the first start marker; nothing and `FOUND = 0` if there is none (43_framing.md R119). -/
def Obligations.StripLeadingResult : Prop :=
  ∀ s : State, s.Ready → s.Fits .bit →
    let d := s.hamDSize
    (¬ s.HamOk → exec .frmStripL s = .next (s.faulted .config 0x10)) ∧
    (s.HamOk → (∀ i, ¬ MatchesAt d s.bits .start i) → ∃ t, exec .frmStripL s = .next t ∧ t.bits = [] ∧
      Ended s t { empty := true } ∧ WritesOnlyBits s t) ∧
    (s.HamOk → ∀ i, MatchesAt d s.bits .start i → (∀ j < i, ¬ MatchesAt d s.bits .start j) →
      ∃ t, exec .frmStripL s = .next t ∧ t.bits = s.bits.drop (i + markerLen d) ∧
        Ended s t { found := true, empty := decide (s.bitLen.toNat = i + markerLen d) } ∧ WritesOnlyBits s t)

/-- `FRM.STRIPT`: what precedes the last end marker; nothing and `FOUND = 0` if there is none (43_framing.md R120). -/
def Obligations.StripTrailingResult : Prop :=
  ∀ s : State, s.Ready → s.Fits .bit →
    let d := s.hamDSize
    (¬ s.HamOk → exec .frmStripT s = .next (s.faulted .config 0x10)) ∧
    (s.HamOk → (∀ i, ¬ MatchesAt d s.bits .finish i) → ∃ t, exec .frmStripT s = .next t ∧ t.bits = [] ∧
      Ended s t { empty := true } ∧ WritesOnlyBits s t) ∧
    (s.HamOk → ∀ i, MatchesAt d s.bits .finish i → (∀ j, i < j → ¬ MatchesAt d s.bits .finish j) →
      ∃ t, exec .frmStripT s = .next t ∧ t.bits = s.bits.take i ∧
        Ended s t { found := true, empty := decide (i = 0) } ∧ WritesOnlyBits s t)

/-- `FRM.UNWRAP`: the part between the first start marker and the last end marker after it; nothing and `FOUND = 0` if
either is missing (43_framing.md R121). -/
def Obligations.UnwrapResult : Prop :=
  ∀ s : State, s.Ready → s.Fits .bit →
    let d := s.hamDSize
    (¬ s.HamOk → exec .frmUnwrap s = .next (s.faulted .config 0x10)) ∧
    (s.HamOk → (∀ i, ¬ MatchesAt d s.bits .start i) → ∃ t, exec .frmUnwrap s = .next t ∧ t.bits = [] ∧
      Ended s t { empty := true } ∧ WritesOnlyBits s t) ∧
    (s.HamOk → ∀ i, MatchesAt d s.bits .start i → (∀ j < i, ¬ MatchesAt d s.bits .start j) →
      let rest := s.bits.drop (i + markerLen d)
      ((∀ k, ¬ MatchesAt d rest .finish k) → ∃ t, exec .frmUnwrap s = .next t ∧ t.bits = [] ∧
        Ended s t { empty := true } ∧ WritesOnlyBits s t) ∧
      (∀ k, MatchesAt d rest .finish k → (∀ j, k < j → ¬ MatchesAt d rest .finish j) →
        ∃ t, exec .frmUnwrap s = .next t ∧ t.bits = rest.take k ∧
          Ended s t { found := true, empty := decide (k = 0) } ∧ WritesOnlyBits s t))

/-- Stripping undoes prepending and appending a marker, and unwrapping undoes wrapping, for every payload
(43_framing.md R122). -/
def Obligations.FramingIdempotent : Prop :=
  ∀ (d : Nat) (b : Bits), d = 4 ∨ d = 8 →
    stripLeading d (codedMark d .start ++ b) = (b, true) ∧
    stripTrailing d (b ++ codedMark d .finish) = (b, true) ∧
    unwrapFrame d (codedMark d .start ++ b ++ codedMark d .finish) = (b, true)

/-! ## Modulators and demodulators -/

/-- `FSK.MOD`: silence, one tone a bit, silence, with noise over all of it (44_modulators.md R132, R133, R138;
30_encoding.md R70). -/
def Obligations.FskModulateResult : Prop :=
  ∀ s : State, s.ModReady .fsk →
    let p := s.pad.toNat
    let total := 2 * p + s.bitLen.toNat * s.sps
    (s.impl.capSamples < total → exec .fskMod s = .next (s.faulted .capacity 0x68)) ∧
    (total ≤ s.impl.capSamples → ∃ t, exec .fskMod s = .next t ∧ t.sampLen.toNat = total ∧
      (∀ i < p, t.sampleAt i = s.noiseOn i F32.zero) ∧
      (∀ j < s.bitLen.toNat, ∀ k < s.sps, t.sampleAt (p + j * s.sps + k) =
        s.noiseOn (p + j * s.sps + k)
          (s.toneAt (Config.numerics.arith.val (if s.bitAt j then s.fskF1 else s.fskF0)) k)) ∧
      (∀ i < p, t.sampleAt (p + s.bitLen.toNat * s.sps + i) =
        s.noiseOn (p + s.bitLen.toNat * s.sps + i) F32.zero) ∧
      Ended s t {} ∧ WritesOnlySamples s t total)

/-- `QPSK.MOD`: silence, one tone a pair of bits, silence, with noise over all of it; an odd number of bits raises
`ERR_LENGTH` (44_modulators.md R136, R133, R138; 30_encoding.md R70). -/
def Obligations.QpskModulateResult : Prop :=
  ∀ s : State, s.ModReady .qpsk →
    let p := s.pad.toNat
    let n := s.bitLen.toNat / 2
    let total := 2 * p + n * s.sps
    (s.bitLen.toNat % 2 ≠ 0 → exec .qpskMod s = .next (s.faulted .length s.bitLen.toNat)) ∧
    (s.bitLen.toNat % 2 = 0 → s.impl.capSamples < total → exec .qpskMod s = .next (s.faulted .capacity 0x68)) ∧
    (s.bitLen.toNat % 2 = 0 → total ≤ s.impl.capSamples → ∃ t, exec .qpskMod s = .next t ∧ t.sampLen.toNat = total ∧
      (∀ i < p, t.sampleAt i = s.noiseOn i F32.zero) ∧
      (∀ j < n, ∀ k < s.sps, t.sampleAt (p + j * s.sps + k) =
        s.noiseOn (p + j * s.sps + k)
          (s.toneAt (Config.numerics.arith.mul (Config.numerics.arith.val s.qpskBase) (Config.numerics.arith.val
            (match s.bitAt (2 * j), s.bitAt (2 * j + 1) with
            | false, false => s.qpskMult0
            | false, true => s.qpskMult1
            | true, false => s.qpskMult2
            | true, true => s.qpskMult3))) k)) ∧
      (∀ i < p, t.sampleAt (p + n * s.sps + i) = s.noiseOn (p + n * s.sps + i) F32.zero) ∧
      Ended s t {} ∧ WritesOnlySamples s t total)

/-- `TB.MOD`: the codec's waveform between two runs of silence, with noise over all of it; an answer that is no valid
waveform raises `ERR_EXTERNAL` (44_modulators.md R141, R138). -/
def Obligations.ToneBlockModulateResult : Prop :=
  ∀ s : State, s.ModReady .tb → ∃ t, exec .tbMod s = .next t ∧
    match Config.tbMod s.bits s.rate.toNat s.symRate.toNat with
    | none => t = s.faulted .external 0x250
    | some w =>
      ((∃ x ∈ w, F32.isSample x = false) → t = s.faulted .external 0x250) ∧
      ((∀ x ∈ w, F32.isSample x = true) → s.impl.capSamples < 2 * s.pad.toNat + w.length →
        t = s.faulted .capacity 0x68) ∧
      ((∀ x ∈ w, F32.isSample x = true) → 2 * s.pad.toNat + w.length ≤ s.impl.capSamples →
        t.sampLen.toNat = 2 * s.pad.toNat + w.length ∧
        (∀ i < s.pad.toNat, t.sampleAt i = s.noiseOn i F32.zero) ∧
        (∀ k < w.length, t.sampleAt (s.pad.toNat + k) = s.noiseOn (s.pad.toNat + k) (w.getD k F32.zero)) ∧
        (∀ i < s.pad.toNat, t.sampleAt (s.pad.toNat + w.length + i) =
          s.noiseOn (s.pad.toNat + w.length + i) F32.zero) ∧
        Ended s t { empty := decide (2 * s.pad.toNat + w.length = 0) } ∧
        WritesOnlySamples s t (2 * s.pad.toNat + w.length))

/-- `FSK.DEM`: bit j is 1 exactly when the detector's result at `f1` over window j is greater than at `f0`
(44_modulators.md R131, R134). -/
def Obligations.FskDemodulateResult : Prop :=
  ∀ s : State, s.DemReady .fsk →
    let off := s.offset.toNat
    let n := if off ≤ s.sampLen.toNat then (s.sampLen.toNat - off) / s.sps else 0
    (s.impl.capBits < n → exec .fskDem s = .next (s.faulted .capacity 0x64)) ∧
    (n ≤ s.impl.capBits → ∃ t, exec .fskDem s = .next t ∧ t.bitLen.toNat = n ∧
      t.bits = fskDem s Config.numerics.arith s.samples off ∧
      (∀ j < n,
        let w := slice s.samples (off + j * s.sps) (off + (j + 1) * s.sps)
        t.bitAt j = Config.numerics.arith.gt
          (detect Config.numerics.arith s.impl.roundTie w (Config.numerics.arith.val s.fskF1) s.rate.toNat)
          (detect Config.numerics.arith s.impl.roundTie w (Config.numerics.arith.val s.fskF0) s.rate.toNat)) ∧
      Ended s t { empty := decide (n = 0) } ∧ WritesOnlyBits s t)

/-- `QPSK.DEM`: window j gives the two bits of the lowest key whose detector result no other exceeds
(44_modulators.md R131, R137). -/
def Obligations.QpskDemodulateResult : Prop :=
  ∀ s : State, s.DemReady .qpsk →
    let off := s.offset.toNat
    let n := if off ≤ s.sampLen.toNat then (s.sampLen.toNat - off) / s.sps else 0
    (s.impl.capBits < 2 * n → exec .qpskDem s = .next (s.faulted .capacity 0x64)) ∧
    (2 * n ≤ s.impl.capBits → ∃ t, exec .qpskDem s = .next t ∧ t.bitLen.toNat = 2 * n ∧
      t.bits = qpskDem s Config.numerics.arith s.samples off ∧
      (∀ j < n,
        let w := slice s.samples (off + j * s.sps) (off + (j + 1) * s.sps)
        let power (k : Nat) := detect Config.numerics.arith s.impl.roundTie w
          (Config.numerics.arith.mul (Config.numerics.arith.val s.qpskBase)
            (Config.numerics.arith.val (s.qpskMult k))) s.rate.toNat
        ∃ k < 4, t.bitAt (2 * j) = k.testBit 1 ∧ t.bitAt (2 * j + 1) = k.testBit 0 ∧
          (∀ m < 4, Config.numerics.arith.gt (power m) (power k) = false) ∧
          (∀ m < k, Config.numerics.arith.gt (power k) (power m) = true)) ∧
      Ended s t { empty := decide (n = 0) } ∧ WritesOnlyBits s t)

/-- `TB.DEM`: the codec's bits; an answer that is no bit sequence raises `ERR_EXTERNAL` (44_modulators.md R142;
60_exceptions.md R185). That the fault is raised here is the model's reading (log 18). -/
def Obligations.ToneBlockDemodulateResult : Prop :=
  ∀ s : State, s.DemReady .tb → ∃ t, exec .tbDem s = .next t ∧
    match Config.tbDem s.samples s.rate.toNat s.symRate.toNat s.offset.toNat with
    | none => t = s.faulted .external 0x251
    | some b =>
      (s.impl.capBits < b.length → t = s.faulted .capacity 0x64) ∧
      (b.length ≤ s.impl.capBits → t.bits = b ∧ Ended s t { empty := b.isEmpty } ∧ WritesOnlyBits s t)

/-- The three `DECODE` commands: demodulate at `OFFSET`, then strip the frame (44_modulators.md R139); the
`ERR_EXTERNAL` of `TB.DECODE` is the model's reading (log 18). -/
def Obligations.DecodeIsDemodulateThenUnwrap : Prop :=
  ∀ (s : State), s.HamOk →
    let A := Config.numerics.arith
    let off := s.offset.toNat
    let strip (t : State) (b : Bits) : Prop :=
      let p := unwrapFrame s.hamDSize b
      (s.impl.capBits < p.1.length → t = s.faulted .capacity 0x64) ∧
      (p.1.length ≤ s.impl.capBits →
        t.bits = p.1 ∧ Ended s t { found := p.2, empty := p.1.isEmpty } ∧ WritesOnlyBits s t)
    (s.DemReady .fsk → ∃ t, exec .fskDecode s = .next t ∧ strip t (fskDem s A s.samples off)) ∧
    (s.DemReady .qpsk → ∃ t, exec .qpskDecode s = .next t ∧ strip t (qpskDem s A s.samples off)) ∧
    (s.DemReady .tb → ∃ t, exec .tbDecode s = .next t ∧
      match Config.tbDem s.samples s.rate.toNat s.symRate.toNat off with
      | none => t = s.faulted .external 0x252
      | some b => strip t b)

/-! ## The checks and their order -/

/-- The first failing check of `checkScheme` is the one reported, for every scheme command (44_modulators.md R140). -/
def Obligations.SchemeCheckOrder : Prop :=
  ∀ (i : Instr) (sch : Scheme) (role : Role) (s : State), Instr.scheme i = some (sch, role) → s.Ready →
    (∀ b, Instr.input i = some b → s.Fits b) →
    ∀ (before after : List SchemeCheck) (code : ErrCode) (info : Nat),
      s.schemeTable sch role (encode i) = before ++ (false, code, info) :: after → (∀ c ∈ before, c.1 = true) →
      exec i s = .next (s.faulted code info)

/-- With the registers usable, a command that reads `SAMPBUF` reports the first invalid sample, and one that needs data
reports an empty buffer, after the registers and before any length or output check (20_memory.md R54;
60_exceptions.md R185, R193). -/
def Obligations.UnusableDataFaults : Prop :=
  (∀ (i : Instr) (sch : Scheme) (role : Role) (s : State), Instr.scheme i = some (sch, role) → s.Ready →
    s.SchemeConfigOk sch role →
    (role ≠ .modulate → s.Fits .samp → ∀ k < s.sampLen.toNat, F32.isSample (s.sampleAt k) = false →
      (∀ j < k, F32.isSample (s.sampleAt j) = true) → exec i s = .next (s.faulted .sample k)) ∧
    (role ≠ .modulate → s.sampLen.toNat = 0 → exec i s = .next (s.faulted .emptyInput 0x68)) ∧
    (role = .modulate → s.bitLen.toNat = 0 → exec i s = .next (s.faulted .emptyInput 0x64))) ∧
  (∀ s : State, s.Ready → s.Fits .samp → ∀ k < s.sampLen.toNat, F32.isSample (s.sampleAt k) = false →
    (∀ j < k, F32.isSample (s.sampleAt j) = true) →
    (s.LevelOk → exec .noiseAdd s = .next (s.faulted .sample k)) ∧
    (0 < s.rate.toNat → F32.isNonneg s.freq = true → exec .goertzel s = .next (s.faulted .sample k)))

/-- A command whose input buffer's length register exceeds the capacity raises `ERR_CAPACITY` with that register's
offset, before any check of its own (10_state.md R32; 60_exceptions.md R192 step 3). -/
def Obligations.InputBeyondCapacityFaults : Prop :=
  ∀ (i : Instr) (b : BufId) (s : State), Instr.input i = some b → s.status.err = false →
    s.capacity b < s.lengthOf b →
    exec i s = .next (s.faulted .capacity (match b with | .byte => 0x60 | .bit => 0x64 | .samp => 0x68))

/-! ## The detector -/

/-- `GOERTZEL`: bin index, coefficient, recurrence and root as written, over `NUMERICS`, into `POWER` and nowhere else;
its faults (45_goertzel.md R151, R152, R155). -/
def Obligations.GoertzelResult : Prop :=
  ∀ s : State, s.Ready → s.Fits .samp →
    (s.rate.toNat = 0 → exec .goertzel s = .next (s.faulted .config 0x40)) ∧
    (0 < s.rate.toNat → F32.isNonneg s.freq = false → exec .goertzel s = .next (s.faulted .config 0x48)) ∧
    (0 < s.rate.toNat → F32.isNonneg s.freq = true → s.sampLen.toNat = 0 →
      exec .goertzel s = .next (s.faulted .emptyInput 0x68)) ∧
    (0 < s.rate.toNat → F32.isNonneg s.freq = true → 0 < s.sampLen.toNat → s.SamplesOk →
      let A := Config.numerics.arith
      let n := s.sampLen.toNat
      let k := A.roundInt s.impl.roundTie (A.div (A.mul (A.ofNat n) (A.val s.freq)) (A.ofNat s.rate.toNat))
      let coeff := A.mul (A.ofNat 2) (A.cos2pi (A.div (A.ofNat k) (A.ofNat n)))
      let q := s.samples.foldl (fun q x => (A.add (A.sub (A.mul coeff q.1) q.2) (A.val x), q.1))
        (A.ofNat 0, A.ofNat 0)
      exec .goertzel s = .next { s with
        power := A.toF32 (A.sqrt (A.sub (A.add (A.mul q.1 q.1) (A.mul q.2 q.2)) (A.mul (A.mul q.1 q.2) coeff)))
        status := { s.status with
          busy := false, done := true, empty := false, found := false, rsStat := .none, decFail := false } })

/-- Over the real numbers the detector's result is the modulus of bin k of the window's discrete Fourier transform;
so it lies between 0 and the sum of the magnitudes, is 0 for silence, scales with the samples and does not change when
they are negated (45_goertzel.md R152, R153). -/
def Obligations.GoertzelIsDftModulus : Prop :=
  ∀ (toF32 : ℝ → F32) (tie : RoundTie) (f : ℝ) (fs : ℕ) (xs : List ℝ), xs ≠ [] →
    let g (ys : List ℝ) : ℝ := goertzel (realArith toF32) tie ys f fs
    g xs = ‖dftBin xs (roundReal tie (xs.length * f / fs))‖ ∧
    0 ≤ g xs ∧ g xs ≤ (xs.map fun x => |x|).sum ∧
    ((∀ x ∈ xs, x = 0) → g xs = 0) ∧
    (∀ a : ℝ, 0 ≤ a → g (xs.map fun x => a * x) = a * g xs) ∧
    g (xs.map fun x => -x) = g xs

/-- A sine on a bin: over the real numbers the result is `A·N/2` at its own bin and its mirror and 0 at every other
(45_goertzel.md R156). -/
def Obligations.ExactBinResponse : Prop :=
  ∀ (toF32 : ℝ → F32) (tie : RoundTie) (n k0 k fs : ℕ) (amp phase f : ℝ),
    3 ≤ n → 0 < k0 → 2 * k0 < n → 0 ≤ amp → k < n → roundReal tie (n * f / fs) = k →
    goertzel (realArith toF32) tie (sineWindow n amp k0 phase) f fs =
      if k = k0 ∨ k = n - k0 then amp * n / 2 else 0

/-- Real arithmetic, with any way of storing results that meets the laws of `toF32`, is a `NUMERICS`
(10_state.md R29; 45_goertzel.md R151, R157), and the real numbers are numbers of the noise injector
(47_noise_and_system.md R170); which laws a `NUMERICS` has beyond R29's is the model's choice (logs 4, 5, 6). -/
def Obligations.ReferenceArithmeticIsLawful : Prop :=
  ∀ toF32 : ℝ → F32, StoreLaws toF32 →
    (realArith toF32).Lawful (fun r => r) toF32 ∧ (realNumbers toF32).Lawful (fun r => r) toF32

/-- Ties: with `FSK_F0 = FSK_F1` every demodulated bit is 0, whatever the arithmetic (10_state.md R26); and over the
real numbers silence demodulates to 0 bits in both schemes (44_modulators.md R134, R137). -/
def Obligations.EqualPowersGiveZeroBits : Prop :=
  (∀ s : State, s.DemReady .fsk → s.fskF0 = s.fskF1 → s.sampLen.toNat ≤ s.impl.capBits →
    ∃ t, exec .fskDem s = .next t ∧ t.status.done = true ∧ ∀ j < t.bitLen.toNat, t.bitAt j = false) ∧
  (∀ (toF32 : ℝ → F32) (s : State) (wv : List F32) (off : Nat), (∀ x ∈ wv, F32.units x = 0) →
    (∀ b ∈ fskDem s (realArith toF32) wv off, b = false) ∧ (∀ b ∈ qpskDem s (realArith toF32) wv off, b = false))

/-! ## The synchronizer -/

/-- `FSK.SYNC` and `QPSK.SYNC`: the scan, the mean and the final decode (46_offset_sync.md R160 to R164). -/
def Obligations.SyncSearchResult : Prop :=
  ∀ s : State, s.HamOk →
    (s.DemReady .fsk → ∃ t, exec .fskSync s = .next t ∧
      SyncResult s t s.sps (fun o => unwrapFrame s.hamDSize (fskDem s Config.numerics.arith s.samples o))) ∧
    (s.DemReady .qpsk → ∃ t, exec .qpskSync s = .next t ∧
      SyncResult s t s.sps (fun o => unwrapFrame s.hamDSize (qpskDem s Config.numerics.arith s.samples o)))

/-- `TB.SYNC`: the same search over the codec's answers, when all of them are bit sequences, and when those asked for
are: the scan of `SYNCX = 0` asks for none beyond its end. The first answer asked for that is no bit sequence raises
`ERR_EXTERNAL` (46_offset_sync.md R160 to R164; 60_exceptions.md R185), which is the model's reading (log 18). -/
def Obligations.ToneBlockSyncResult : Prop :=
  ∀ s : State, s.HamOk → s.DemReady .tb → ∃ t, exec .tbSync s = .next t ∧
    let answer (o : Nat) := Config.tbDem s.samples s.rate.toNat s.symRate.toNat o
    let dec (o : Nat) := unwrapFrame s.hamDSize ((answer o).getD [])
    ((∀ o < s.sps, (answer o).isSome = true) → SyncResult s t s.sps dec) ∧
    (s.syncX = false → ∀ a b, a ≤ b → b + 1 < s.sps → (∀ o ≤ b + 1, (answer o).isSome = true) →
      (∀ o < a, (dec o).1 = []) → (∀ o, a ≤ o → o ≤ b → (dec o).1 ≠ []) → (dec (b + 1)).1 = [] →
      SyncEnds s t (dec ((a + b) / 2)) ((a + b) / 2) (b - a + 1) ∧ (dec ((a + b) / 2)).2 = true) ∧
    (∀ o < s.sps, answer o = none → (∀ j < o, (answer j).isSome = true) →
      (s.syncX = true ∨ ∀ a b, a < b → b < o → (dec a).1 ≠ [] → (dec b).1 ≠ []) →
      t = s.faulted .external 0x270)

/-! ## Noise -/

/-- `NOISE.ADD`: sample by sample, one draw each; with level 0 nothing changes (47_noise_and_system.md R170, R171,
R173). -/
def Obligations.NoiseAddResult : Prop :=
  ∀ s : State, s.Ready → s.Fits .samp →
    (¬ s.LevelOk → exec .noiseAdd s = .next (s.faulted .config 0x4C)) ∧
    (s.LevelOk → s.SamplesOk → ∃ t, exec .noiseAdd s = .next t ∧ t.sampLen = s.sampLen ∧
      (∀ i < s.sampLen.toNat, t.sampleAt i = s.noiseOn i (s.sampleAt i)) ∧
      Ended s t { empty := decide (s.sampLen.toNat = 0) } ∧ WritesOnlySamples s t s.sampLen.toNat)

/-- One noisy sample, for every `NUMERICS`: a uniform draw lies in `[-level, level]` and can be any number there, a
Gaussian draw any number; clamping gives -1 below -1, 1 above 1 and the number itself between; the result is
`toF32(clamp(val(x) + d))` with the real sum, a valid sample; and in uniform mode clamping leaves the sum within `level`
of the sample (47_noise_and_system.md R170, R172, R174); the form of a draw is the model's choice (log 7). -/
def Obligations.NoisySampleIsClampedSum : Prop :=
  ∀ (N : Numerics) (level : F32) (d : N.Draw), F32.isNonneg level = true →
    let l : ℝ := F32.rat level
    let real := N.drawReal
    (-l ≤ real (drawIn N.reals false level d) ∧ real (drawIn N.reals false level d) ≤ l) ∧
    (-l ≤ real d → real d ≤ l → drawIn N.reals false level d = d) ∧
    drawIn N.reals true level d = d ∧
    real (clampTo N.reals (N.reals.val F32.negOne) (N.reals.val F32.one) d) =
      (if real d < -1 then -1 else if 1 < real d then 1 else real d) ∧
    (∀ (gauss : Bool) (x : F32), F32.isFinite x = true →
      noisySample N.reals gauss level x d =
        N.toF32 (max (-1) (min 1 ((F32.rat x : ℝ) + real (drawIn N.reals gauss level d)))) ∧
      F32.isSample (noisySample N.reals gauss level x d) = true) ∧
    (∀ x : F32, F32.isSample x = true →
      |max (-1) (min 1 ((F32.rat x : ℝ) + real (drawIn N.reals false level d))) - (F32.rat x : ℝ)| ≤ l)

/-- The encoders and `NOISE.ADD` never produce an invalid sample (20_memory.md R54; 44_modulators.md R133;
47_noise_and_system.md R174). -/
def Obligations.ProducedSamplesAreValid : Prop :=
  ∀ (i : Instr) (s t : State), Instr.output i = some .samp → s.Ready → exec i s = .next t →
    t.status.err = false → ∀ k < t.sampLen.toNat, F32.isSample (t.sampleAt k) = true

/-! ## The whole machine -/

/-- Every step from a state that meets the invariant gives a state that meets it, and no step changes the
implementation's parameters (10_state.md R20, R22, R24, R31; 20_memory.md R41; 70_reset_and_hazards.md R212). -/
def Obligations.StepKeepsStateInvariant : Prop :=
  ∀ s t : State, s.Inv → step s = .next t → t.Inv ∧ t.impl = s.impl

/-- The state after reset meets the invariant and every register has its reset value, for every implementation in the
spec's ranges (10_state.md R35). -/
def Obligations.ResetStateMeetsInvariant : Prop :=
  State.reset.Inv ∧
  ∀ p : Params, p.ok = true → (State.powerOn p).Inv ∧
    (∀ off, (State.powerOn p).readReg off = if off = 0x0C then 3 + 4 * (if p.tbPresent then 1 else 0) else 0) ∧
    (State.powerOn p).byteLen = 0 ∧ (State.powerOn p).bitLen = 0 ∧ (State.powerOn p).sampLen = 0

/-- Every command ends in one step: it completes, or it faults and changes nothing but `ERR`, `ERRCODE`, `ERRINFO`,
`BUSY` and `DONE` (60_exceptions.md R195, R196; 70_reset_and_hazards.md R225). -/
def Obligations.EveryCommandEndsPrecisely : Prop :=
  ∀ (i : Instr) (s : State), ∃ t, exec i s = .next t ∧
    (s.status.err = false → i ≠ .reset →
      (t.status.done = true ∧ t.status.err = false ∧ t.status.busy = false) ∨
      (∃ code info, code ≠ .none ∧ t = s.faulted code info))

/-- A command raises only the faults its row of the fault table has, with its detail words (60_exceptions.md R187). -/
def Obligations.CommandsRaiseOnlyTheirFaults : Prop :=
  ∀ (i : Instr) (s t : State), s.status.err = false → exec i s = .next t → t.status.err = true →
    Instr.mayRaise i t.status.errCode t.errInfo

/-- No command but `RESET` writes an operand or configuration register, `POWER` is `GOERTZEL`'s alone, `SYNCOFF` and
`SYNCCNT` are `SYNC`'s alone, and a buffer and its length are written only by the commands that have it as output
(10_state.md R16 to R19, R30, R31; 30_encoding.md R62). -/
def Obligations.CommandsWriteOnlyTheirOutputs : Prop :=
  ∀ (i : Instr) (s t : State), i ≠ .reset → exec i s = .next t →
    SameOperands s t ∧ SameHost s t ∧
    (i ≠ .goertzel → t.power = s.power) ∧
    (i ∉ [Instr.fskSync, .qpskSync, .tbSync] → SameSync s t) ∧
    (Instr.output i ≠ some .byte → SameBytes s t) ∧
    (Instr.output i ≠ some .bit → SameBits s t) ∧
    (Instr.output i ≠ some .samp → SameSamples s t ∧ t.draws = s.draws)

/-- What a command's rule does not name as an input has no influence on it: the configuration and operand registers it
is not listed as reading, the bits of `CFG` it does not read, the result registers, `ERRINFO` and all of `STATUS` but
`ERR`, the buffers it does not read and their length registers, and what is outside the block (10_state.md R16 to R19,
R24 to R28, R30 to R32, R34; 00_scope.md R2). A buffer it writes without reading and that buffer's old length decide only
what is unspecified beyond the new length (93_implementation_defined.md U1; log 8). -/
def Obligations.UnreadStateDoesNotMatter : Prop :=
  ∀ (i : Instr) (s t : State) (x : Word), i ≠ .reset → exec i s = .next t →
    (i ∉ [Instr.fskDem, .qpskDem, .tbDem, .fskDecode, .qpskDecode, .tbDecode] →
      exec i { s with offset := x } = .next { t with offset := x }) ∧
    (i ≠ .goertzel → exec i { s with freq := x } = .next { t with freq := x }) ∧
    (i ∉ [Instr.fskMod, .qpskMod, .tbMod, .noiseAdd] → exec i { s with level := x } = .next { t with level := x }) ∧
    (i ∉ [Instr.fskMod, .qpskMod, .tbMod] → exec i { s with pad := x } = .next { t with pad := x }) ∧
    (Instr.scheme i = none → exec i { s with symRate := x } = .next { t with symRate := x }) ∧
    (Instr.scheme i = none → i ≠ .goertzel → exec i { s with rate := x } = .next { t with rate := x }) ∧
    (i ∉ [Instr.fskMod, .fskDem, .fskDecode, .fskSync] →
      exec i { s with fskF0 := x } = .next { t with fskF0 := x } ∧
      exec i { s with fskF1 := x } = .next { t with fskF1 := x }) ∧
    (i ∉ [Instr.qpskMod, .qpskDem, .qpskDecode, .qpskSync] →
      exec i { s with qpskBase := x } = .next { t with qpskBase := x } ∧
      exec i { s with qpskMult0 := x } = .next { t with qpskMult0 := x } ∧
      exec i { s with qpskMult1 := x } = .next { t with qpskMult1 := x } ∧
      exec i { s with qpskMult2 := x } = .next { t with qpskMult2 := x } ∧
      exec i { s with qpskMult3 := x } = .next { t with qpskMult3 := x }) ∧
    (x &&& Instr.cfgRead i = s.cfg &&& Instr.cfgRead i → exec i { s with cfg := x } = .next { t with cfg := x }) ∧
    exec i { s with power := x } =
      .next (if i = .goertzel ∧ t.status.err = false then t else { t with power := x }) ∧
    exec i { s with syncOff := x } =
      .next (if i ∈ [.fskSync, .qpskSync, .tbSync] ∧ t.status.err = false then t else { t with syncOff := x }) ∧
    exec i { s with syncCnt := x } =
      .next (if i ∈ [.fskSync, .qpskSync, .tbSync] ∧ t.status.err = false then t else { t with syncCnt := x }) ∧
    exec i { s with errInfo := x } =
      .next (if i = .clrErr ∨ (s.status.err = false ∧ t.status.err = true) then t else { t with errInfo := x }) ∧
    (∀ u : Status, u.err = s.status.err → ∃ v : Status, v.err = t.status.err ∧
      exec i { s with status := u } = .next { t with status := v }) ∧
    (∀ (b : Buf Byte) (e : Nat), Instr.input i ≠ some .byte →
      (Instr.output i ≠ some .byte → exec i { s with byteLen := x, byteBuf := b, byteEpoch := e } =
        .next { t with byteLen := x, byteBuf := b, byteEpoch := e }) ∧
      (Instr.output i = some .byte → ∃ n c f, exec i { s with byteLen := x, byteBuf := b, byteEpoch := e } =
        .next { t with byteLen := n, byteBuf := c, byteEpoch := f } ∧
        (t.status.err = false → n = t.byteLen ∧ { t with byteBuf := c, byteEpoch := f }.bytes = t.bytes))) ∧
    (∀ (b : Buf Bool) (e : Nat), Instr.input i ≠ some .bit →
      (Instr.output i ≠ some .bit → exec i { s with bitLen := x, bitBuf := b, bitEpoch := e } =
        .next { t with bitLen := x, bitBuf := b, bitEpoch := e }) ∧
      (Instr.output i = some .bit → ∃ n c f, exec i { s with bitLen := x, bitBuf := b, bitEpoch := e } =
        .next { t with bitLen := n, bitBuf := c, bitEpoch := f } ∧
        (t.status.err = false → n = t.bitLen ∧ { t with bitBuf := c, bitEpoch := f }.bits = t.bits))) ∧
    (∀ (b : Buf F32) (e : Nat), Instr.input i ≠ some .samp →
      (Instr.output i ≠ some .samp → exec i { s with sampLen := x, sampBuf := b, sampEpoch := e } =
        .next { t with sampLen := x, sampBuf := b, sampEpoch := e }) ∧
      (Instr.output i = some .samp → ∃ n c f, exec i { s with sampLen := x, sampBuf := b, sampEpoch := e } =
        .next { t with sampLen := n, sampBuf := c, sampEpoch := f } ∧
        (t.status.err = false → n = t.sampLen ∧ { t with sampBuf := c, sampEpoch := f }.samples = t.samples))) ∧
    (∀ h : List HostAccess, exec i { s with host := h, reply := x } = .next { t with host := h, reply := x }) ∧
    (i ∉ [Instr.fskMod, .qpskMod, .tbMod, .noiseAdd] ∨ F32.units s.level = 0 →
      ∀ n : Nat, exec i { s with draws := n } = .next { t with draws := n })

end
end

