-- ==== Sys2Proof/Laws/State.lean ====
section
/-!
SUPPORT. One lemma a field and update of the state, each true by definition, so that no proof unfolds a record update;
and what a state and the same state issued read alike.
-/

namespace Sys2Proof.Machine

/-! ## `issued` -/

@[simp] theorem State.issued_status (s : State) : s.issued.status = s.status.issued := rfl
@[simp] theorem State.issued_errInfo (s : State) : s.issued.errInfo = s.errInfo := rfl
@[simp] theorem State.issued_cfg (s : State) : s.issued.cfg = s.cfg := rfl
@[simp] theorem State.issued_symRate (s : State) : s.issued.symRate = s.symRate := rfl
@[simp] theorem State.issued_fskF0 (s : State) : s.issued.fskF0 = s.fskF0 := rfl
@[simp] theorem State.issued_fskF1 (s : State) : s.issued.fskF1 = s.fskF1 := rfl
@[simp] theorem State.issued_qpskBase (s : State) : s.issued.qpskBase = s.qpskBase := rfl
@[simp] theorem State.issued_qpskMult0 (s : State) : s.issued.qpskMult0 = s.qpskMult0 := rfl
@[simp] theorem State.issued_qpskMult1 (s : State) : s.issued.qpskMult1 = s.qpskMult1 := rfl
@[simp] theorem State.issued_qpskMult2 (s : State) : s.issued.qpskMult2 = s.qpskMult2 := rfl
@[simp] theorem State.issued_qpskMult3 (s : State) : s.issued.qpskMult3 = s.qpskMult3 := rfl
@[simp] theorem State.issued_pad (s : State) : s.issued.pad = s.pad := rfl
@[simp] theorem State.issued_rate (s : State) : s.issued.rate = s.rate := rfl
@[simp] theorem State.issued_offset (s : State) : s.issued.offset = s.offset := rfl
@[simp] theorem State.issued_freq (s : State) : s.issued.freq = s.freq := rfl
@[simp] theorem State.issued_level (s : State) : s.issued.level = s.level := rfl
@[simp] theorem State.issued_power (s : State) : s.issued.power = s.power := rfl
@[simp] theorem State.issued_syncOff (s : State) : s.issued.syncOff = s.syncOff := rfl
@[simp] theorem State.issued_syncCnt (s : State) : s.issued.syncCnt = s.syncCnt := rfl
@[simp] theorem State.issued_byteLen (s : State) : s.issued.byteLen = s.byteLen := rfl
@[simp] theorem State.issued_bitLen (s : State) : s.issued.bitLen = s.bitLen := rfl
@[simp] theorem State.issued_sampLen (s : State) : s.issued.sampLen = s.sampLen := rfl
@[simp] theorem State.issued_byteBuf (s : State) : s.issued.byteBuf = s.byteBuf := rfl
@[simp] theorem State.issued_bitBuf (s : State) : s.issued.bitBuf = s.bitBuf := rfl
@[simp] theorem State.issued_sampBuf (s : State) : s.issued.sampBuf = s.sampBuf := rfl
@[simp] theorem State.issued_impl (s : State) : s.issued.impl = s.impl := rfl
@[simp] theorem State.issued_byteEpoch (s :
    State) : s.issued.byteEpoch = s.byteEpoch := rfl
@[simp] theorem State.issued_bitEpoch (s :
    State) : s.issued.bitEpoch = s.bitEpoch := rfl
@[simp] theorem State.issued_sampEpoch (s :
    State) : s.issued.sampEpoch = s.sampEpoch := rfl
@[simp] theorem State.issued_draws (s : State) : s.issued.draws = s.draws := rfl
@[simp] theorem State.issued_host (s : State) : s.issued.host = s.host := rfl
@[simp] theorem State.issued_reply (s : State) : s.issued.reply = s.reply := rfl

/-! ## `complete` -/

@[simp] theorem State.complete_status (s : State) (f : Flags) : (s.complete f).status = s.status.complete f := rfl
@[simp] theorem State.complete_errInfo (s : State) (f : Flags) : (s.complete f).errInfo = s.errInfo := rfl
@[simp] theorem State.complete_cfg (s : State) (f : Flags) : (s.complete f).cfg = s.cfg := rfl
@[simp] theorem State.complete_symRate (s : State) (f : Flags) : (s.complete f).symRate = s.symRate := rfl
@[simp] theorem State.complete_fskF0 (s : State) (f : Flags) : (s.complete f).fskF0 = s.fskF0 := rfl
@[simp] theorem State.complete_fskF1 (s : State) (f : Flags) : (s.complete f).fskF1 = s.fskF1 := rfl
@[simp] theorem State.complete_qpskBase (s : State) (f : Flags) : (s.complete f).qpskBase = s.qpskBase := rfl
@[simp] theorem State.complete_qpskMult0 (s : State) (f : Flags) : (s.complete f).qpskMult0 = s.qpskMult0 := rfl
@[simp] theorem State.complete_qpskMult1 (s : State) (f : Flags) : (s.complete f).qpskMult1 = s.qpskMult1 := rfl
@[simp] theorem State.complete_qpskMult2 (s : State) (f : Flags) : (s.complete f).qpskMult2 = s.qpskMult2 := rfl
@[simp] theorem State.complete_qpskMult3 (s : State) (f : Flags) : (s.complete f).qpskMult3 = s.qpskMult3 := rfl
@[simp] theorem State.complete_pad (s : State) (f : Flags) : (s.complete f).pad = s.pad := rfl
@[simp] theorem State.complete_rate (s : State) (f : Flags) : (s.complete f).rate = s.rate := rfl
@[simp] theorem State.complete_offset (s : State) (f : Flags) : (s.complete f).offset = s.offset := rfl
@[simp] theorem State.complete_freq (s : State) (f : Flags) : (s.complete f).freq = s.freq := rfl
@[simp] theorem State.complete_level (s : State) (f : Flags) : (s.complete f).level = s.level := rfl
@[simp] theorem State.complete_power (s : State) (f : Flags) : (s.complete f).power = s.power := rfl
@[simp] theorem State.complete_syncOff (s : State) (f : Flags) : (s.complete f).syncOff = s.syncOff := rfl
@[simp] theorem State.complete_syncCnt (s : State) (f : Flags) : (s.complete f).syncCnt = s.syncCnt := rfl
@[simp] theorem State.complete_byteLen (s : State) (f : Flags) : (s.complete f).byteLen = s.byteLen := rfl
@[simp] theorem State.complete_bitLen (s : State) (f : Flags) : (s.complete f).bitLen = s.bitLen := rfl
@[simp] theorem State.complete_sampLen (s : State) (f : Flags) : (s.complete f).sampLen = s.sampLen := rfl
@[simp] theorem State.complete_byteBuf (s : State) (f : Flags) : (s.complete f).byteBuf = s.byteBuf := rfl
@[simp] theorem State.complete_bitBuf (s : State) (f : Flags) : (s.complete f).bitBuf = s.bitBuf := rfl
@[simp] theorem State.complete_sampBuf (s : State) (f : Flags) : (s.complete f).sampBuf = s.sampBuf := rfl
@[simp] theorem State.complete_impl (s : State) (f : Flags) : (s.complete f).impl = s.impl := rfl
@[simp] theorem State.complete_byteEpoch (s :
    State) (f : Flags) : (s.complete f).byteEpoch = s.byteEpoch := rfl
@[simp] theorem State.complete_bitEpoch (s :
    State) (f : Flags) : (s.complete f).bitEpoch = s.bitEpoch := rfl
@[simp] theorem State.complete_sampEpoch (s :
    State) (f : Flags) : (s.complete f).sampEpoch = s.sampEpoch := rfl
@[simp] theorem State.complete_draws (s : State) (f : Flags) : (s.complete f).draws = s.draws := rfl
@[simp] theorem State.complete_host (s : State) (f : Flags) : (s.complete f).host = s.host := rfl
@[simp] theorem State.complete_reply (s : State) (f : Flags) : (s.complete f).reply = s.reply := rfl

/-! ## `raise` -/

@[simp] theorem State.raise_status (s : State) (r : Raise) : (s.raise r).status = s.status.raise r.code := rfl
@[simp] theorem State.raise_errInfo (s : State) (r : Raise) : (s.raise r).errInfo = r.info := rfl
@[simp] theorem State.raise_cfg (s : State) (r : Raise) : (s.raise r).cfg = s.cfg := rfl
@[simp] theorem State.raise_symRate (s : State) (r : Raise) : (s.raise r).symRate = s.symRate := rfl
@[simp] theorem State.raise_fskF0 (s : State) (r : Raise) : (s.raise r).fskF0 = s.fskF0 := rfl
@[simp] theorem State.raise_fskF1 (s : State) (r : Raise) : (s.raise r).fskF1 = s.fskF1 := rfl
@[simp] theorem State.raise_qpskBase (s : State) (r : Raise) : (s.raise r).qpskBase = s.qpskBase := rfl
@[simp] theorem State.raise_qpskMult0 (s : State) (r : Raise) : (s.raise r).qpskMult0 = s.qpskMult0 := rfl
@[simp] theorem State.raise_qpskMult1 (s : State) (r : Raise) : (s.raise r).qpskMult1 = s.qpskMult1 := rfl
@[simp] theorem State.raise_qpskMult2 (s : State) (r : Raise) : (s.raise r).qpskMult2 = s.qpskMult2 := rfl
@[simp] theorem State.raise_qpskMult3 (s : State) (r : Raise) : (s.raise r).qpskMult3 = s.qpskMult3 := rfl
@[simp] theorem State.raise_pad (s : State) (r : Raise) : (s.raise r).pad = s.pad := rfl
@[simp] theorem State.raise_rate (s : State) (r : Raise) : (s.raise r).rate = s.rate := rfl
@[simp] theorem State.raise_offset (s : State) (r : Raise) : (s.raise r).offset = s.offset := rfl
@[simp] theorem State.raise_freq (s : State) (r : Raise) : (s.raise r).freq = s.freq := rfl
@[simp] theorem State.raise_level (s : State) (r : Raise) : (s.raise r).level = s.level := rfl
@[simp] theorem State.raise_power (s : State) (r : Raise) : (s.raise r).power = s.power := rfl
@[simp] theorem State.raise_syncOff (s : State) (r : Raise) : (s.raise r).syncOff = s.syncOff := rfl
@[simp] theorem State.raise_syncCnt (s : State) (r : Raise) : (s.raise r).syncCnt = s.syncCnt := rfl
@[simp] theorem State.raise_byteLen (s : State) (r : Raise) : (s.raise r).byteLen = s.byteLen := rfl
@[simp] theorem State.raise_bitLen (s : State) (r : Raise) : (s.raise r).bitLen = s.bitLen := rfl
@[simp] theorem State.raise_sampLen (s : State) (r : Raise) : (s.raise r).sampLen = s.sampLen := rfl
@[simp] theorem State.raise_byteBuf (s : State) (r : Raise) : (s.raise r).byteBuf = s.byteBuf := rfl
@[simp] theorem State.raise_bitBuf (s : State) (r : Raise) : (s.raise r).bitBuf = s.bitBuf := rfl
@[simp] theorem State.raise_sampBuf (s : State) (r : Raise) : (s.raise r).sampBuf = s.sampBuf := rfl
@[simp] theorem State.raise_impl (s : State) (r : Raise) : (s.raise r).impl = s.impl := rfl
@[simp] theorem State.raise_byteEpoch (s :
    State) (r : Raise) : (s.raise r).byteEpoch = s.byteEpoch := rfl
@[simp] theorem State.raise_bitEpoch (s :
    State) (r : Raise) : (s.raise r).bitEpoch = s.bitEpoch := rfl
@[simp] theorem State.raise_sampEpoch (s :
    State) (r : Raise) : (s.raise r).sampEpoch = s.sampEpoch := rfl
@[simp] theorem State.raise_draws (s : State) (r : Raise) : (s.raise r).draws = s.draws := rfl
@[simp] theorem State.raise_host (s : State) (r : Raise) : (s.raise r).host = s.host := rfl
@[simp] theorem State.raise_reply (s : State) (r : Raise) : (s.raise r).reply = s.reply := rfl

/-! ## `clearErr` -/

@[simp] theorem State.clearErr_status (s : State) : s.clearErr.status = s.status.clearErr := rfl
@[simp] theorem State.clearErr_errInfo (s : State) : s.clearErr.errInfo = 0 := rfl
@[simp] theorem State.clearErr_cfg (s : State) : s.clearErr.cfg = s.cfg := rfl
@[simp] theorem State.clearErr_symRate (s : State) : s.clearErr.symRate = s.symRate := rfl
@[simp] theorem State.clearErr_fskF0 (s : State) : s.clearErr.fskF0 = s.fskF0 := rfl
@[simp] theorem State.clearErr_fskF1 (s : State) : s.clearErr.fskF1 = s.fskF1 := rfl
@[simp] theorem State.clearErr_qpskBase (s : State) : s.clearErr.qpskBase = s.qpskBase := rfl
@[simp] theorem State.clearErr_qpskMult0 (s : State) : s.clearErr.qpskMult0 = s.qpskMult0 := rfl
@[simp] theorem State.clearErr_qpskMult1 (s : State) : s.clearErr.qpskMult1 = s.qpskMult1 := rfl
@[simp] theorem State.clearErr_qpskMult2 (s : State) : s.clearErr.qpskMult2 = s.qpskMult2 := rfl
@[simp] theorem State.clearErr_qpskMult3 (s : State) : s.clearErr.qpskMult3 = s.qpskMult3 := rfl
@[simp] theorem State.clearErr_pad (s : State) : s.clearErr.pad = s.pad := rfl
@[simp] theorem State.clearErr_rate (s : State) : s.clearErr.rate = s.rate := rfl
@[simp] theorem State.clearErr_offset (s : State) : s.clearErr.offset = s.offset := rfl
@[simp] theorem State.clearErr_freq (s : State) : s.clearErr.freq = s.freq := rfl
@[simp] theorem State.clearErr_level (s : State) : s.clearErr.level = s.level := rfl
@[simp] theorem State.clearErr_power (s : State) : s.clearErr.power = s.power := rfl
@[simp] theorem State.clearErr_syncOff (s : State) : s.clearErr.syncOff = s.syncOff := rfl
@[simp] theorem State.clearErr_syncCnt (s : State) : s.clearErr.syncCnt = s.syncCnt := rfl
@[simp] theorem State.clearErr_byteLen (s : State) : s.clearErr.byteLen = s.byteLen := rfl
@[simp] theorem State.clearErr_bitLen (s : State) : s.clearErr.bitLen = s.bitLen := rfl
@[simp] theorem State.clearErr_sampLen (s : State) : s.clearErr.sampLen = s.sampLen := rfl
@[simp] theorem State.clearErr_byteBuf (s : State) : s.clearErr.byteBuf = s.byteBuf := rfl
@[simp] theorem State.clearErr_bitBuf (s : State) : s.clearErr.bitBuf = s.bitBuf := rfl
@[simp] theorem State.clearErr_sampBuf (s : State) : s.clearErr.sampBuf = s.sampBuf := rfl
@[simp] theorem State.clearErr_impl (s : State) : s.clearErr.impl = s.impl := rfl
@[simp] theorem State.clearErr_byteEpoch (s :
    State) : s.clearErr.byteEpoch = s.byteEpoch := rfl
@[simp] theorem State.clearErr_bitEpoch (s :
    State) : s.clearErr.bitEpoch = s.bitEpoch := rfl
@[simp] theorem State.clearErr_sampEpoch (s :
    State) : s.clearErr.sampEpoch = s.sampEpoch := rfl
@[simp] theorem State.clearErr_draws (s : State) : s.clearErr.draws = s.draws := rfl
@[simp] theorem State.clearErr_host (s : State) : s.clearErr.host = s.host := rfl
@[simp] theorem State.clearErr_reply (s : State) : s.clearErr.reply = s.reply := rfl

/-! ## `putBytes` -/

@[simp] theorem State.putBytes_status (s : State) (v : List Byte) : (s.putBytes v).status = s.status := rfl
@[simp] theorem State.putBytes_errInfo (s : State) (v : List Byte) : (s.putBytes v).errInfo = s.errInfo := rfl
@[simp] theorem State.putBytes_cfg (s : State) (v : List Byte) : (s.putBytes v).cfg = s.cfg := rfl
@[simp] theorem State.putBytes_symRate (s : State) (v : List Byte) : (s.putBytes v).symRate = s.symRate := rfl
@[simp] theorem State.putBytes_fskF0 (s : State) (v : List Byte) : (s.putBytes v).fskF0 = s.fskF0 := rfl
@[simp] theorem State.putBytes_fskF1 (s : State) (v : List Byte) : (s.putBytes v).fskF1 = s.fskF1 := rfl
@[simp] theorem State.putBytes_qpskBase (s : State) (v : List Byte) : (s.putBytes v).qpskBase = s.qpskBase := rfl
@[simp] theorem State.putBytes_qpskMult0 (s : State) (v : List Byte) : (s.putBytes v).qpskMult0 = s.qpskMult0 := rfl
@[simp] theorem State.putBytes_qpskMult1 (s : State) (v : List Byte) : (s.putBytes v).qpskMult1 = s.qpskMult1 := rfl
@[simp] theorem State.putBytes_qpskMult2 (s : State) (v : List Byte) : (s.putBytes v).qpskMult2 = s.qpskMult2 := rfl
@[simp] theorem State.putBytes_qpskMult3 (s : State) (v : List Byte) : (s.putBytes v).qpskMult3 = s.qpskMult3 := rfl
@[simp] theorem State.putBytes_pad (s : State) (v : List Byte) : (s.putBytes v).pad = s.pad := rfl
@[simp] theorem State.putBytes_rate (s : State) (v : List Byte) : (s.putBytes v).rate = s.rate := rfl
@[simp] theorem State.putBytes_offset (s : State) (v : List Byte) : (s.putBytes v).offset = s.offset := rfl
@[simp] theorem State.putBytes_freq (s : State) (v : List Byte) : (s.putBytes v).freq = s.freq := rfl
@[simp] theorem State.putBytes_level (s : State) (v : List Byte) : (s.putBytes v).level = s.level := rfl
@[simp] theorem State.putBytes_power (s : State) (v : List Byte) : (s.putBytes v).power = s.power := rfl
@[simp] theorem State.putBytes_syncOff (s : State) (v : List Byte) : (s.putBytes v).syncOff = s.syncOff := rfl
@[simp] theorem State.putBytes_syncCnt (s : State) (v : List Byte) : (s.putBytes v).syncCnt = s.syncCnt := rfl
@[simp] theorem State.putBytes_byteLen (s : State) (v : List Byte) : (s.putBytes v).byteLen = BitVec.ofNat 32 v.length := rfl
@[simp] theorem State.putBytes_bitLen (s : State) (v : List Byte) : (s.putBytes v).bitLen = s.bitLen := rfl
@[simp] theorem State.putBytes_sampLen (s : State) (v : List Byte) : (s.putBytes v).sampLen = s.sampLen := rfl
@[simp] theorem State.putBytes_byteBuf (s : State) (v : List Byte) : (s.putBytes v).byteBuf = s.byteBuf.put s.byteLen.toNat v := rfl
@[simp] theorem State.putBytes_bitBuf (s : State) (v : List Byte) : (s.putBytes v).bitBuf = s.bitBuf := rfl
@[simp] theorem State.putBytes_sampBuf (s : State) (v : List Byte) : (s.putBytes v).sampBuf = s.sampBuf := rfl
@[simp] theorem State.putBytes_impl (s : State) (v : List Byte) : (s.putBytes v).impl = s.impl := rfl
@[simp] theorem State.putBytes_byteEpoch (s :
    State) (v : List Byte) : (s.putBytes v).byteEpoch = epochAfter s.byteEpoch s.byteLen.toNat v.length := rfl
@[simp] theorem State.putBytes_bitEpoch (s :
    State) (v : List Byte) : (s.putBytes v).bitEpoch = s.bitEpoch := rfl
@[simp] theorem State.putBytes_sampEpoch (s :
    State) (v : List Byte) : (s.putBytes v).sampEpoch = s.sampEpoch := rfl
@[simp] theorem State.putBytes_draws (s : State) (v : List Byte) : (s.putBytes v).draws = s.draws := rfl
@[simp] theorem State.putBytes_host (s : State) (v : List Byte) : (s.putBytes v).host = s.host := rfl
@[simp] theorem State.putBytes_reply (s : State) (v : List Byte) : (s.putBytes v).reply = s.reply := rfl

/-! ## `putBits` -/

@[simp] theorem State.putBits_status (s : State) (v : Bits) : (s.putBits v).status = s.status := rfl
@[simp] theorem State.putBits_errInfo (s : State) (v : Bits) : (s.putBits v).errInfo = s.errInfo := rfl
@[simp] theorem State.putBits_cfg (s : State) (v : Bits) : (s.putBits v).cfg = s.cfg := rfl
@[simp] theorem State.putBits_symRate (s : State) (v : Bits) : (s.putBits v).symRate = s.symRate := rfl
@[simp] theorem State.putBits_fskF0 (s : State) (v : Bits) : (s.putBits v).fskF0 = s.fskF0 := rfl
@[simp] theorem State.putBits_fskF1 (s : State) (v : Bits) : (s.putBits v).fskF1 = s.fskF1 := rfl
@[simp] theorem State.putBits_qpskBase (s : State) (v : Bits) : (s.putBits v).qpskBase = s.qpskBase := rfl
@[simp] theorem State.putBits_qpskMult0 (s : State) (v : Bits) : (s.putBits v).qpskMult0 = s.qpskMult0 := rfl
@[simp] theorem State.putBits_qpskMult1 (s : State) (v : Bits) : (s.putBits v).qpskMult1 = s.qpskMult1 := rfl
@[simp] theorem State.putBits_qpskMult2 (s : State) (v : Bits) : (s.putBits v).qpskMult2 = s.qpskMult2 := rfl
@[simp] theorem State.putBits_qpskMult3 (s : State) (v : Bits) : (s.putBits v).qpskMult3 = s.qpskMult3 := rfl
@[simp] theorem State.putBits_pad (s : State) (v : Bits) : (s.putBits v).pad = s.pad := rfl
@[simp] theorem State.putBits_rate (s : State) (v : Bits) : (s.putBits v).rate = s.rate := rfl
@[simp] theorem State.putBits_offset (s : State) (v : Bits) : (s.putBits v).offset = s.offset := rfl
@[simp] theorem State.putBits_freq (s : State) (v : Bits) : (s.putBits v).freq = s.freq := rfl
@[simp] theorem State.putBits_level (s : State) (v : Bits) : (s.putBits v).level = s.level := rfl
@[simp] theorem State.putBits_power (s : State) (v : Bits) : (s.putBits v).power = s.power := rfl
@[simp] theorem State.putBits_syncOff (s : State) (v : Bits) : (s.putBits v).syncOff = s.syncOff := rfl
@[simp] theorem State.putBits_syncCnt (s : State) (v : Bits) : (s.putBits v).syncCnt = s.syncCnt := rfl
@[simp] theorem State.putBits_byteLen (s : State) (v : Bits) : (s.putBits v).byteLen = s.byteLen := rfl
@[simp] theorem State.putBits_bitLen (s : State) (v : Bits) : (s.putBits v).bitLen = BitVec.ofNat 32 v.length := rfl
@[simp] theorem State.putBits_sampLen (s : State) (v : Bits) : (s.putBits v).sampLen = s.sampLen := rfl
@[simp] theorem State.putBits_byteBuf (s : State) (v : Bits) : (s.putBits v).byteBuf = s.byteBuf := rfl
@[simp] theorem State.putBits_bitBuf (s : State) (v : Bits) : (s.putBits v).bitBuf = s.bitBuf.put s.bitLen.toNat v := rfl
@[simp] theorem State.putBits_sampBuf (s : State) (v : Bits) : (s.putBits v).sampBuf = s.sampBuf := rfl
@[simp] theorem State.putBits_impl (s : State) (v : Bits) : (s.putBits v).impl = s.impl := rfl
@[simp] theorem State.putBits_byteEpoch (s :
    State) (v : Bits) : (s.putBits v).byteEpoch = s.byteEpoch := rfl
@[simp] theorem State.putBits_bitEpoch (s :
    State) (v : Bits) : (s.putBits v).bitEpoch = epochAfter s.bitEpoch s.bitLen.toNat v.length := rfl
@[simp] theorem State.putBits_sampEpoch (s :
    State) (v : Bits) : (s.putBits v).sampEpoch = s.sampEpoch := rfl
@[simp] theorem State.putBits_draws (s : State) (v : Bits) : (s.putBits v).draws = s.draws := rfl
@[simp] theorem State.putBits_host (s : State) (v : Bits) : (s.putBits v).host = s.host := rfl
@[simp] theorem State.putBits_reply (s : State) (v : Bits) : (s.putBits v).reply = s.reply := rfl

/-! ## `putSamples` -/

@[simp] theorem State.putSamples_status (s : State) (v : List F32) : (s.putSamples v).status = s.status := rfl
@[simp] theorem State.putSamples_errInfo (s : State) (v : List F32) : (s.putSamples v).errInfo = s.errInfo := rfl
@[simp] theorem State.putSamples_cfg (s : State) (v : List F32) : (s.putSamples v).cfg = s.cfg := rfl
@[simp] theorem State.putSamples_symRate (s : State) (v : List F32) : (s.putSamples v).symRate = s.symRate := rfl
@[simp] theorem State.putSamples_fskF0 (s : State) (v : List F32) : (s.putSamples v).fskF0 = s.fskF0 := rfl
@[simp] theorem State.putSamples_fskF1 (s : State) (v : List F32) : (s.putSamples v).fskF1 = s.fskF1 := rfl
@[simp] theorem State.putSamples_qpskBase (s : State) (v : List F32) : (s.putSamples v).qpskBase = s.qpskBase := rfl
@[simp] theorem State.putSamples_qpskMult0 (s : State) (v : List F32) : (s.putSamples v).qpskMult0 = s.qpskMult0 := rfl
@[simp] theorem State.putSamples_qpskMult1 (s : State) (v : List F32) : (s.putSamples v).qpskMult1 = s.qpskMult1 := rfl
@[simp] theorem State.putSamples_qpskMult2 (s : State) (v : List F32) : (s.putSamples v).qpskMult2 = s.qpskMult2 := rfl
@[simp] theorem State.putSamples_qpskMult3 (s : State) (v : List F32) : (s.putSamples v).qpskMult3 = s.qpskMult3 := rfl
@[simp] theorem State.putSamples_pad (s : State) (v : List F32) : (s.putSamples v).pad = s.pad := rfl
@[simp] theorem State.putSamples_rate (s : State) (v : List F32) : (s.putSamples v).rate = s.rate := rfl
@[simp] theorem State.putSamples_offset (s : State) (v : List F32) : (s.putSamples v).offset = s.offset := rfl
@[simp] theorem State.putSamples_freq (s : State) (v : List F32) : (s.putSamples v).freq = s.freq := rfl
@[simp] theorem State.putSamples_level (s : State) (v : List F32) : (s.putSamples v).level = s.level := rfl
@[simp] theorem State.putSamples_power (s : State) (v : List F32) : (s.putSamples v).power = s.power := rfl
@[simp] theorem State.putSamples_syncOff (s : State) (v : List F32) : (s.putSamples v).syncOff = s.syncOff := rfl
@[simp] theorem State.putSamples_syncCnt (s : State) (v : List F32) : (s.putSamples v).syncCnt = s.syncCnt := rfl
@[simp] theorem State.putSamples_byteLen (s : State) (v : List F32) : (s.putSamples v).byteLen = s.byteLen := rfl
@[simp] theorem State.putSamples_bitLen (s : State) (v : List F32) : (s.putSamples v).bitLen = s.bitLen := rfl
@[simp] theorem State.putSamples_sampLen (s : State) (v : List F32) : (s.putSamples v).sampLen = BitVec.ofNat 32 v.length := rfl
@[simp] theorem State.putSamples_byteBuf (s : State) (v : List F32) : (s.putSamples v).byteBuf = s.byteBuf := rfl
@[simp] theorem State.putSamples_bitBuf (s : State) (v : List F32) : (s.putSamples v).bitBuf = s.bitBuf := rfl
@[simp] theorem State.putSamples_sampBuf (s : State) (v : List F32) : (s.putSamples v).sampBuf = s.sampBuf.put s.sampLen.toNat v := rfl
@[simp] theorem State.putSamples_impl (s : State) (v : List F32) : (s.putSamples v).impl = s.impl := rfl
@[simp] theorem State.putSamples_byteEpoch (s :
    State) (v : List F32) : (s.putSamples v).byteEpoch = s.byteEpoch := rfl
@[simp] theorem State.putSamples_bitEpoch (s :
    State) (v : List F32) : (s.putSamples v).bitEpoch = s.bitEpoch := rfl
@[simp] theorem State.putSamples_sampEpoch (s :
    State) (v : List F32) : (s.putSamples v).sampEpoch = epochAfter s.sampEpoch s.sampLen.toNat v.length := rfl
@[simp] theorem State.putSamples_draws (s : State) (v : List F32) : (s.putSamples v).draws = s.draws := rfl
@[simp] theorem State.putSamples_host (s : State) (v : List F32) : (s.putSamples v).host = s.host := rfl
@[simp] theorem State.putSamples_reply (s : State) (v : List F32) : (s.putSamples v).reply = s.reply := rfl

/-! ## `drawn` -/

@[simp] theorem State.drawn_status (s : State) (n : Nat) : (s.drawn n).status = s.status := rfl
@[simp] theorem State.drawn_errInfo (s : State) (n : Nat) : (s.drawn n).errInfo = s.errInfo := rfl
@[simp] theorem State.drawn_cfg (s : State) (n : Nat) : (s.drawn n).cfg = s.cfg := rfl
@[simp] theorem State.drawn_symRate (s : State) (n : Nat) : (s.drawn n).symRate = s.symRate := rfl
@[simp] theorem State.drawn_fskF0 (s : State) (n : Nat) : (s.drawn n).fskF0 = s.fskF0 := rfl
@[simp] theorem State.drawn_fskF1 (s : State) (n : Nat) : (s.drawn n).fskF1 = s.fskF1 := rfl
@[simp] theorem State.drawn_qpskBase (s : State) (n : Nat) : (s.drawn n).qpskBase = s.qpskBase := rfl
@[simp] theorem State.drawn_qpskMult0 (s : State) (n : Nat) : (s.drawn n).qpskMult0 = s.qpskMult0 := rfl
@[simp] theorem State.drawn_qpskMult1 (s : State) (n : Nat) : (s.drawn n).qpskMult1 = s.qpskMult1 := rfl
@[simp] theorem State.drawn_qpskMult2 (s : State) (n : Nat) : (s.drawn n).qpskMult2 = s.qpskMult2 := rfl
@[simp] theorem State.drawn_qpskMult3 (s : State) (n : Nat) : (s.drawn n).qpskMult3 = s.qpskMult3 := rfl
@[simp] theorem State.drawn_pad (s : State) (n : Nat) : (s.drawn n).pad = s.pad := rfl
@[simp] theorem State.drawn_rate (s : State) (n : Nat) : (s.drawn n).rate = s.rate := rfl
@[simp] theorem State.drawn_offset (s : State) (n : Nat) : (s.drawn n).offset = s.offset := rfl
@[simp] theorem State.drawn_freq (s : State) (n : Nat) : (s.drawn n).freq = s.freq := rfl
@[simp] theorem State.drawn_level (s : State) (n : Nat) : (s.drawn n).level = s.level := rfl
@[simp] theorem State.drawn_power (s : State) (n : Nat) : (s.drawn n).power = s.power := rfl
@[simp] theorem State.drawn_syncOff (s : State) (n : Nat) : (s.drawn n).syncOff = s.syncOff := rfl
@[simp] theorem State.drawn_syncCnt (s : State) (n : Nat) : (s.drawn n).syncCnt = s.syncCnt := rfl
@[simp] theorem State.drawn_byteLen (s : State) (n : Nat) : (s.drawn n).byteLen = s.byteLen := rfl
@[simp] theorem State.drawn_bitLen (s : State) (n : Nat) : (s.drawn n).bitLen = s.bitLen := rfl
@[simp] theorem State.drawn_sampLen (s : State) (n : Nat) : (s.drawn n).sampLen = s.sampLen := rfl
@[simp] theorem State.drawn_byteBuf (s : State) (n : Nat) : (s.drawn n).byteBuf = s.byteBuf := rfl
@[simp] theorem State.drawn_bitBuf (s : State) (n : Nat) : (s.drawn n).bitBuf = s.bitBuf := rfl
@[simp] theorem State.drawn_sampBuf (s : State) (n : Nat) : (s.drawn n).sampBuf = s.sampBuf := rfl
@[simp] theorem State.drawn_impl (s : State) (n : Nat) : (s.drawn n).impl = s.impl := rfl
@[simp] theorem State.drawn_byteEpoch (s :
    State) (n : Nat) : (s.drawn n).byteEpoch = s.byteEpoch := rfl
@[simp] theorem State.drawn_bitEpoch (s :
    State) (n : Nat) : (s.drawn n).bitEpoch = s.bitEpoch := rfl
@[simp] theorem State.drawn_sampEpoch (s :
    State) (n : Nat) : (s.drawn n).sampEpoch = s.sampEpoch := rfl
@[simp] theorem State.drawn_draws (s : State) (n : Nat) : (s.drawn n).draws = s.draws + drawsTaken s.level n := rfl
@[simp] theorem State.drawn_host (s : State) (n : Nat) : (s.drawn n).host = s.host := rfl
@[simp] theorem State.drawn_reply (s : State) (n : Nat) : (s.drawn n).reply = s.reply := rfl

/-! ## `answer` -/

@[simp] theorem State.answer_status (s : State) (w : Word) : (s.answer w).status = s.status := rfl
@[simp] theorem State.answer_errInfo (s : State) (w : Word) : (s.answer w).errInfo = s.errInfo := rfl
@[simp] theorem State.answer_cfg (s : State) (w : Word) : (s.answer w).cfg = s.cfg := rfl
@[simp] theorem State.answer_symRate (s : State) (w : Word) : (s.answer w).symRate = s.symRate := rfl
@[simp] theorem State.answer_fskF0 (s : State) (w : Word) : (s.answer w).fskF0 = s.fskF0 := rfl
@[simp] theorem State.answer_fskF1 (s : State) (w : Word) : (s.answer w).fskF1 = s.fskF1 := rfl
@[simp] theorem State.answer_qpskBase (s : State) (w : Word) : (s.answer w).qpskBase = s.qpskBase := rfl
@[simp] theorem State.answer_qpskMult0 (s : State) (w : Word) : (s.answer w).qpskMult0 = s.qpskMult0 := rfl
@[simp] theorem State.answer_qpskMult1 (s : State) (w : Word) : (s.answer w).qpskMult1 = s.qpskMult1 := rfl
@[simp] theorem State.answer_qpskMult2 (s : State) (w : Word) : (s.answer w).qpskMult2 = s.qpskMult2 := rfl
@[simp] theorem State.answer_qpskMult3 (s : State) (w : Word) : (s.answer w).qpskMult3 = s.qpskMult3 := rfl
@[simp] theorem State.answer_pad (s : State) (w : Word) : (s.answer w).pad = s.pad := rfl
@[simp] theorem State.answer_rate (s : State) (w : Word) : (s.answer w).rate = s.rate := rfl
@[simp] theorem State.answer_offset (s : State) (w : Word) : (s.answer w).offset = s.offset := rfl
@[simp] theorem State.answer_freq (s : State) (w : Word) : (s.answer w).freq = s.freq := rfl
@[simp] theorem State.answer_level (s : State) (w : Word) : (s.answer w).level = s.level := rfl
@[simp] theorem State.answer_power (s : State) (w : Word) : (s.answer w).power = s.power := rfl
@[simp] theorem State.answer_syncOff (s : State) (w : Word) : (s.answer w).syncOff = s.syncOff := rfl
@[simp] theorem State.answer_syncCnt (s : State) (w : Word) : (s.answer w).syncCnt = s.syncCnt := rfl
@[simp] theorem State.answer_byteLen (s : State) (w : Word) : (s.answer w).byteLen = s.byteLen := rfl
@[simp] theorem State.answer_bitLen (s : State) (w : Word) : (s.answer w).bitLen = s.bitLen := rfl
@[simp] theorem State.answer_sampLen (s : State) (w : Word) : (s.answer w).sampLen = s.sampLen := rfl
@[simp] theorem State.answer_byteBuf (s : State) (w : Word) : (s.answer w).byteBuf = s.byteBuf := rfl
@[simp] theorem State.answer_bitBuf (s : State) (w : Word) : (s.answer w).bitBuf = s.bitBuf := rfl
@[simp] theorem State.answer_sampBuf (s : State) (w : Word) : (s.answer w).sampBuf = s.sampBuf := rfl
@[simp] theorem State.answer_impl (s : State) (w : Word) : (s.answer w).impl = s.impl := rfl
@[simp] theorem State.answer_byteEpoch (s :
    State) (w : Word) : (s.answer w).byteEpoch = s.byteEpoch := rfl
@[simp] theorem State.answer_bitEpoch (s :
    State) (w : Word) : (s.answer w).bitEpoch = s.bitEpoch := rfl
@[simp] theorem State.answer_sampEpoch (s :
    State) (w : Word) : (s.answer w).sampEpoch = s.sampEpoch := rfl
@[simp] theorem State.answer_draws (s : State) (w : Word) : (s.answer w).draws = s.draws := rfl
@[simp] theorem State.answer_host (s : State) (w : Word) : (s.answer w).host = s.host := rfl
@[simp] theorem State.answer_reply (s : State) (w : Word) : (s.answer w).reply = w := rfl

/-! ## `Status` -/

@[simp] theorem Status.complete_busy (t : Status) (f : Flags) : (t.complete f).busy = false := rfl
@[simp] theorem Status.complete_done (t : Status) (f : Flags) : (t.complete f).done = true := rfl
@[simp] theorem Status.complete_err (t : Status) (f : Flags) : (t.complete f).err = t.err := rfl
@[simp] theorem Status.complete_empty (t : Status) (f : Flags) : (t.complete f).empty = f.empty := rfl
@[simp] theorem Status.complete_found (t : Status) (f : Flags) : (t.complete f).found = f.found := rfl
@[simp] theorem Status.complete_rsStat (t : Status) (f : Flags) : (t.complete f).rsStat = f.rsStat := rfl
@[simp] theorem Status.complete_decFail (t : Status) (f : Flags) : (t.complete f).decFail = f.decFail := rfl
@[simp] theorem Status.complete_errCode (t : Status) (f : Flags) : (t.complete f).errCode = t.errCode := rfl

@[simp] theorem Status.raise_busy (t : Status) (c : ErrCode) : (t.raise c).busy = false := rfl
@[simp] theorem Status.raise_done (t : Status) (c : ErrCode) : (t.raise c).done = t.done := rfl
@[simp] theorem Status.raise_err (t : Status) (c : ErrCode) : (t.raise c).err = true := rfl
@[simp] theorem Status.raise_empty (t : Status) (c : ErrCode) : (t.raise c).empty = t.empty := rfl
@[simp] theorem Status.raise_found (t : Status) (c : ErrCode) : (t.raise c).found = t.found := rfl
@[simp] theorem Status.raise_rsStat (t : Status) (c : ErrCode) : (t.raise c).rsStat = t.rsStat := rfl
@[simp] theorem Status.raise_decFail (t : Status) (c : ErrCode) : (t.raise c).decFail = t.decFail := rfl
@[simp] theorem Status.raise_errCode (t : Status) (c : ErrCode) : (t.raise c).errCode = c := rfl

@[simp] theorem Status.issued_busy (t : Status) : t.issued.busy = true := rfl
@[simp] theorem Status.issued_done (t : Status) : t.issued.done = false := rfl
@[simp] theorem Status.issued_err (t : Status) : t.issued.err = t.err := rfl
@[simp] theorem Status.issued_empty (t : Status) : t.issued.empty = t.empty := rfl
@[simp] theorem Status.issued_found (t : Status) : t.issued.found = t.found := rfl
@[simp] theorem Status.issued_rsStat (t : Status) : t.issued.rsStat = t.rsStat := rfl
@[simp] theorem Status.issued_decFail (t : Status) : t.issued.decFail = t.decFail := rfl
@[simp] theorem Status.issued_errCode (t : Status) : t.issued.errCode = t.errCode := rfl

@[simp] theorem Status.clearErr_busy (t : Status) : t.clearErr.busy = t.busy := rfl
@[simp] theorem Status.clearErr_done (t : Status) : t.clearErr.done = t.done := rfl
@[simp] theorem Status.clearErr_err (t : Status) : t.clearErr.err = false := rfl
@[simp] theorem Status.clearErr_empty (t : Status) : t.clearErr.empty = t.empty := rfl
@[simp] theorem Status.clearErr_found (t : Status) : t.clearErr.found = t.found := rfl
@[simp] theorem Status.clearErr_rsStat (t : Status) : t.clearErr.rsStat = t.rsStat := rfl
@[simp] theorem Status.clearErr_decFail (t : Status) : t.clearErr.decFail = t.decFail := rfl
@[simp] theorem Status.clearErr_errCode (t : Status) : t.clearErr.errCode = ErrCode.none := rfl

/-- Completing what was issued is completing: `BUSY` and `DONE` are rewritten. -/
@[simp] theorem Status.issued_complete (t : Status) (f : Flags) : t.issued.complete f = t.complete f := rfl

/-! ## What issuing a command leaves as it was, and what is outside the block -/

@[simp] theorem State.issued_toOutside (s : State) : s.issued.toOutside = s.toOutside := rfl
@[simp] theorem State.complete_toOutside (s : State) (f : Flags) : (s.complete f).toOutside = s.toOutside := rfl
@[simp] theorem State.raise_toOutside (s : State) (r : Raise) : (s.raise r).toOutside = s.toOutside := rfl
@[simp] theorem State.clearErr_toOutside (s : State) : s.clearErr.toOutside = s.toOutside := rfl
@[simp] theorem State.restart_toBlock (s : State) : s.restart.toBlock = Block.reset := rfl
@[simp] theorem State.restart_toOutside (s : State) : s.restart.toOutside = s.toOutside.afterReset := rfl
@[simp] theorem State.issued_env (s : State) : s.issued.env = s.env := rfl

@[simp] theorem State.issued_bytes (s : State) : s.issued.bytes = s.bytes := rfl
@[simp] theorem State.issued_bits (s : State) : s.issued.bits = s.bits := rfl
@[simp] theorem State.issued_samples (s : State) : s.issued.samples = s.samples := rfl
@[simp] theorem State.issued_hamDSize (s : State) : s.issued.hamDSize = s.hamDSize := rfl
@[simp] theorem State.issued_syncX (s : State) : s.issued.syncX = s.syncX := rfl
@[simp] theorem State.issued_noiseGauss (s : State) : s.issued.noiseGauss = s.noiseGauss := rfl
@[simp] theorem State.issued_sps (s : State) : s.issued.sps = s.sps := rfl
@[simp] theorem State.issued_capacity (s : State) (b : BufId) : s.issued.capacity b = s.capacity b := rfl
@[simp] theorem State.issued_lengthOf (s : State) (b : BufId) : s.issued.lengthOf b = s.lengthOf b := rfl
@[simp] theorem State.issued_checkHam (s : State) : s.issued.checkHam = s.checkHam := rfl
@[simp] theorem State.issued_checkRate (s : State) : s.issued.checkRate = s.checkRate := rfl
@[simp] theorem State.issued_checkSymRate (s : State) : s.issued.checkSymRate = s.checkSymRate := rfl
@[simp] theorem State.issued_checkLevel (s : State) : s.issued.checkLevel = s.checkLevel := rfl
@[simp] theorem State.issued_checkFreq (s : State) : s.issued.checkFreq = s.checkFreq := rfl
@[simp] theorem State.issued_checkedSamples (s : State) : s.issued.checkedSamples = s.checkedSamples := rfl
@[simp] theorem State.issued_waveform (s : State) : s.issued.waveform = s.waveform := rfl
@[simp] theorem State.issued_byteAt (s : State) (i : Nat) : s.issued.byteAt i = s.byteAt i := rfl
@[simp] theorem State.issued_bitAt (s : State) (i : Nat) : s.issued.bitAt i = s.bitAt i := rfl
@[simp] theorem State.issued_sampleAt (s : State) (i : Nat) : s.issued.sampleAt i = s.sampleAt i := rfl
@[simp] theorem State.issued_checkCapacity (s : State) (b : BufId) (n : Nat) :
    s.issued.checkCapacity b n = s.checkCapacity b n := rfl
@[simp] theorem State.issued_checkScheme (s : State) (sch : Scheme) (role : Role) (w : Word) :
    s.issued.checkScheme sch role w = s.checkScheme sch role w := by cases sch <;> rfl
@[simp] theorem State.issued_demodulate {R D : Type} (E : Env R D) (s : State) (sch : Scheme) (w : Word) (wv : List F32)
    (off : Nat) : demodulate E s.issued sch w wv off = demodulate E s sch w wv off := rfl
@[simp] theorem State.issued_decodeAt {R D : Type} (E : Env R D) (s : State) (sch : Scheme) (w : Word) (wv : List F32)
    (off : Nat) : decodeAt E s.issued sch w wv off = decodeAt E s sch w wv off := rfl

/-- A fault raised by an issued command is the faulted state. -/
theorem State.issued_raise_of (s : State) (code : ErrCode) (info : Nat) :
    s.issued.raise (Raise.of code info) = s.faulted code info := rfl

end Sys2Proof.Machine
end

