-- ==== Sys2Proof/Laws/Buf.lean ====
section
/-!
SUPPORT. The laws of the buffers: reading after writing, and that every buffer operation keeps the canonical form and
the capacity.
-/

namespace Sys2Proof.Machine

variable {α : Type}

/-! ## Reading after writing -/

theorem cellAt_setCell (i : Nat) (v : α) (l : List (Nat × α)) (k : Nat) :
    cellAt (setCell i v l) k = if i = k then some v else cellAt l k := by
  induction l with
  | nil => simp [setCell, cellAt]
  | cons c rest ih =>
    obtain ⟨j, w⟩ := c
    simp only [setCell]
    split
    · simp [cellAt]
    · split
      · rename_i h
        subst h
        simp only [cellAt]
        split <;> simp_all
      · simp only [cellAt, ih]
        split <;> split <;> simp_all

theorem cellAt_cellsFrom (v : List α) (k i : Nat) :
    cellAt (cellsFrom k v) i = if k ≤ i then v[i - k]? else none := by
  induction v generalizing k with
  | nil => simp [cellsFrom, cellAt]
  | cons x rest ih =>
    simp only [cellsFrom, cellAt, ih]
    rcases Nat.lt_trichotomy k i with h | h | h
    · obtain ⟨d, rfl⟩ := Nat.exists_eq_add_of_lt h
      have e : k + d + 1 - k = d + 1 := by omega
      have e' : k + d + 1 - (k + 1) = d := by omega
      simp [e, e', show k ≠ k + d + 1 by omega, show k ≤ k + d + 1 by omega, show k + 1 ≤ k + d + 1 by omega]
    · simp [h]
    · simp [show k ≠ i by omega, show ¬ k ≤ i by omega, show ¬ k + 1 ≤ i by omega]

theorem cellAt_append (l m : List (Nat × α)) (i : Nat) : cellAt (l ++ m) i = (cellAt l i).or (cellAt m i) := by
  induction l with
  | nil => simp [cellAt]
  | cons c rest ih =>
    obtain ⟨j, w⟩ := c
    simp only [List.cons_append, cellAt, ih]
    split <;> simp

theorem cellAt_filter_ge (l : List (Nat × α)) (n i : Nat) :
    cellAt (l.filter fun c => decide (n ≤ c.1)) i = if n ≤ i then cellAt l i else none := by
  induction l with
  | nil => simp [cellAt]
  | cons c rest ih =>
    obtain ⟨j, w⟩ := c
    by_cases hj : n ≤ j
    · simp only [List.filter_cons, hj, decide_true, if_true, cellAt, ih]
      split <;> simp_all
    · simp only [List.filter_cons, hj, decide_false, cellAt]
      by_cases e : j = i
      · subst e
        simpa [hj] using ih
      · simpa [e] using ih

/-- Reading after one element was written (20_memory.md R46). -/
theorem Buf.read_write (free : Nat → α) (b : Buf α) (i : Nat) (v : α) (k : Nat) :
    (b.write i v).read free k = if i = k then v else b.read free k := by
  simp only [Buf.read, Buf.write, cellAt_setCell]
  split <;> simp

/-- Reading an element a command wrote. -/
theorem Buf.read_put_lt (free : Nat → α) (b : Buf α) (n : Nat) (v : List α) (i : Nat) (h : i < v.length) :
    (b.put n v).read free i = v[i] := by
  simp only [Buf.read, Buf.put]
  split <;> simp [cellAt_append, cellAt_cellsFrom, h]

/-- Reading beyond what a command wrote, when it did not shorten the buffer. -/
theorem Buf.read_put_ge (free : Nat → α) (b : Buf α) (n : Nat) (v : List α) (i : Nat) (hn : n ≤ v.length)
    (h : v.length ≤ i) : (b.put n v).read free i = b.read free i := by
  simp [Buf.read, Buf.put, show ¬ v.length < n by omega, cellAt_append, cellAt_cellsFrom, cellAt_filter_ge, h]

/-- An element of a buffer in which nothing is written is the free value it is given. -/
@[simp] theorem Buf.read_nil (free : Nat → α) (i : Nat) : Buf.read free { cells := [] } i = free i := rfl

/-- A write that does not shorten the buffer keeps its epoch, one that does starts the next. -/
theorem epochAfter_of_le {epoch oldLen newLen : Nat} (h : oldLen ≤ newLen) : epochAfter epoch oldLen newLen = epoch := by
  simp [epochAfter, Nat.not_lt.2 h]

theorem epochAfter_of_lt {epoch oldLen newLen : Nat} (h : newLen < oldLen) :
    epochAfter epoch oldLen newLen = epoch + 1 := by
  simp [epochAfter, h]

/-- Every element after a reset is the free value of its buffer's next epoch (70_reset_and_hazards.md R211). -/
theorem State.byteAt_restart (s : State) (i : Nat) : s.restart.byteAt i = Config.freeByte (s.byteEpoch + 1) i := rfl

theorem State.bitAt_restart (s : State) (i : Nat) : s.restart.bitAt i = Config.freeBit (s.bitEpoch + 1) i := rfl

theorem State.sampleAt_restart (s : State) (i : Nat) : s.restart.sampleAt i = Config.freeSample (s.sampEpoch + 1) i := rfl

/-! ## The canonical form -/

theorem cellsRising_iff (l : List (Nat × α)) : cellsRising l = true ↔ l.Pairwise fun a b => a.1 < b.1 := by
  induction l with
  | nil => simp [cellsRising]
  | cons a rest ih =>
    obtain ⟨i, x⟩ := a
    cases rest with
    | nil => simp [cellsRising]
    | cons b rest =>
      obtain ⟨j, w⟩ := b
      simp only [cellsRising, Bool.and_eq_true, decide_eq_true_eq, ih]
      simp only [List.pairwise_cons, List.mem_cons, forall_eq_or_imp]
      constructor
      · rintro ⟨h, h1, h2⟩
        exact ⟨⟨h, fun c hc => Nat.lt_trans h (h1 c hc)⟩, h1, h2⟩
      · rintro ⟨⟨h, -⟩, h1, h2⟩
        exact ⟨h, h1, h2⟩

theorem mem_setCell {i : Nat} {v : α} {l : List (Nat × α)} {c : Nat × α} (h : c ∈ setCell i v l) :
    c = (i, v) ∨ c ∈ l := by
  induction l with
  | nil => simpa [setCell] using h
  | cons a rest ih =>
    obtain ⟨j, w⟩ := a
    simp only [setCell] at h
    split at h
    · simpa using h
    · split at h
      · rcases List.mem_cons.1 h with h | h
        · exact .inl h
        · exact .inr (List.mem_cons_of_mem _ h)
      · rcases List.mem_cons.1 h with h | h
        · exact .inr (h ▸ List.mem_cons_self)
        · exact (ih h).imp id (List.mem_cons_of_mem _)

theorem mem_cellsFrom {v : List α} {k : Nat} {c : Nat × α} (h : c ∈ cellsFrom k v) :
    k ≤ c.1 ∧ c.1 < k + v.length := by
  induction v generalizing k with
  | nil => simp [cellsFrom] at h
  | cons x rest ih =>
    rcases List.mem_cons.1 h with h | h
    · subst h
      simp
    · have := ih h
      simp only [List.length_cons]
      omega

theorem cellsRising_setCell (i : Nat) (v : α) (l : List (Nat × α)) (h : cellsRising l = true) :
    cellsRising (setCell i v l) = true := by
  rw [cellsRising_iff] at *
  induction l with
  | nil => simp [setCell]
  | cons a rest ih =>
    obtain ⟨j, w⟩ := a
    obtain ⟨h1, h2⟩ := List.pairwise_cons.1 h
    simp only [setCell]
    split
    · rename_i hij
      exact List.pairwise_cons.2 ⟨fun c hc => (List.mem_cons.1 hc).elim (fun e => e ▸ hij)
        (fun hc => Nat.lt_trans hij (h1 c hc)), h⟩
    · split
      · rename_i e
        subst e
        exact List.pairwise_cons.2 ⟨h1, h2⟩
      · refine List.pairwise_cons.2 ⟨fun c hc => ?_, ih h2⟩
        rcases mem_setCell hc with rfl | hc
        · show j < i
          omega
        · exact h1 c hc

theorem cellsRising_cellsFrom (v : List α) (k : Nat) : cellsRising (cellsFrom k v) = true := by
  rw [cellsRising_iff]
  induction v generalizing k with
  | nil => simp [cellsFrom]
  | cons x rest ih =>
    refine List.pairwise_cons.2 ⟨fun c hc => ?_, ih (k + 1)⟩
    have := mem_cellsFrom hc
    show k < c.1
    omega

theorem Buf.wf_write (b : Buf α) (i : Nat) (v : α) (h : b.wf = true) : (b.write i v).wf = true :=
  cellsRising_setCell i v b.cells h

theorem Buf.wf_put (b : Buf α) (n : Nat) (v : List α) (h : b.wf = true) : (b.put n v).wf = true := by
  unfold Buf.put
  split
  · exact cellsRising_cellsFrom v 0
  · simp only [Buf.wf] at *
    rw [cellsRising_iff] at *
    refine List.pairwise_append.2 ⟨(cellsRising_iff _).1 (cellsRising_cellsFrom v 0), h.filter _, fun a ha c hc => ?_⟩
    have h1 := mem_cellsFrom ha
    have h2 := (List.mem_filter.1 hc).2
    simp only [decide_eq_true_eq] at h2
    omega

theorem Buf.within_write (b : Buf α) (cap i : Nat) (v : α) (hi : i < cap) (h : b.within cap = true) :
    (b.write i v).within cap = true := by
  simp only [Buf.within, Buf.write, List.all_eq_true, decide_eq_true_eq] at *
  intro c hc
  rcases mem_setCell hc with rfl | hc
  · exact hi
  · exact h c hc

theorem Buf.within_put (b : Buf α) (cap n : Nat) (v : List α) (hv : v.length ≤ cap) (h : b.within cap = true) :
    (b.put n v).within cap = true := by
  simp only [Buf.within, List.all_eq_true, decide_eq_true_eq] at *
  intro c hc
  unfold Buf.put at hc
  split at hc
  · have := mem_cellsFrom hc
    omega
  · rcases List.mem_append.1 hc with hc | hc
    · have := mem_cellsFrom hc
      omega
    · exact h c (List.mem_filter.1 hc).1

/-- The memory right after reset is in canonical form, and a reset leaves it so. -/
theorem Memory.wf_reset : Memory.wf State.reset = true := rfl

theorem Memory.wf_restart (s : State) : Memory.wf s.restart = true := rfl

/-! ## What a command's output reads as -/

/-- A list's elements read back one by one. -/
theorem map_range_read (free : Nat → α) (b : Buf α) (n : Nat) (v : List α) :
    (List.range v.length).map ((b.put n v).read free) = v := by
  apply List.ext_getElem
  · simp
  · intro i h1 h2
    simp only [List.getElem_map, List.getElem_range]
    exact Buf.read_put_lt free b n v i h2

theorem toNat_ofNat_of_lt {n : Nat} (h : n < 2 ^ 32) : (BitVec.ofNat 32 n).toNat = n := by
  rw [BitVec.toNat_ofNat, Nat.mod_eq_of_lt h]

/-- The content of `BYTEBUF` after `Out(BYTEBUF, v)`. -/
theorem State.bytes_putBytes (s : State) (v : List Byte) (h : v.length < 2 ^ 32) : (s.putBytes v).bytes = v := by
  simp only [State.bytes, State.putBytes_byteLen, toNat_ofNat_of_lt h]
  exact map_range_read _ s.byteBuf s.byteLen.toNat v

/-- The content of `BITBUF` after `Out(BITBUF, v)`. -/
theorem State.bits_putBits (s : State) (v : Bits) (h : v.length < 2 ^ 32) : (s.putBits v).bits = v := by
  simp only [State.bits, State.putBits_bitLen, toNat_ofNat_of_lt h]
  exact map_range_read _ s.bitBuf s.bitLen.toNat v

/-- The content of `SAMPBUF` after `Out(SAMPBUF, v)`. -/
theorem State.samples_putSamples (s : State) (v : List F32) (h : v.length < 2 ^ 32) : (s.putSamples v).samples = v := by
  simp only [State.samples, State.putSamples_sampLen, toNat_ofNat_of_lt h]
  exact map_range_read _ s.sampBuf s.sampLen.toNat v

@[simp] theorem State.length_bytes (s : State) : s.bytes.length = s.byteLen.toNat := by simp [State.bytes]

@[simp] theorem State.length_bits (s : State) : s.bits.length = s.bitLen.toNat := by simp [State.bits]

@[simp] theorem State.length_samples (s : State) : s.samples.length = s.sampLen.toNat := by simp [State.samples]

end Sys2Proof.Machine
end

