-- ==== Sys2Proof/Laws/Ops.lean ====
section
/-!
SUPPORT. One lemma for each shared operation, saying once everything it can do: issuing a command, checking a capacity,
writing an output, the register checks, the waveform, the scan of the synchronizer, and one host access.
-/

namespace Sys2Proof.Machine

/-! ## Issue and end of a command -/

/-- A refused command. -/
theorem State.run_of_err {s : State} (input : Option BufId) (body : Cmd) (h : s.status.err = true) :
    s.run input body = s := by
  simp [State.run, h]

/-- A command whose input buffer's length register is beyond the capacity. -/
theorem State.run_of_too_long {s : State} {b : BufId} (body : Cmd) (h : s.status.err = false)
    (hb : s.capacity b < s.lengthOf b) :
    s.run (some b) body = s.faulted .capacity (bufLenOffset b) := by
  simp [State.run, h, State.checkCapacity, hb, State.settle, State.issued_raise_of]

/-- A command that runs: its own pseudocode decides. -/
theorem State.run_of_fits {s : State} {b : BufId} (body : Cmd) (h : s.status.err = false) (hb : s.Fits b) :
    s.run (some b) body = s.issued.settle (body s.issued) := by
  simp [State.run, h, State.checkCapacity, Nat.not_lt.2 hb]

/-- A command without an input buffer. -/
theorem State.run_none {s : State} (body : Cmd) (h : s.status.err = false) :
    s.run none body = s.issued.settle (body s.issued) := by
  simp [State.run, h]

/-- What a command with an input buffer can leave. -/
theorem State.run_cases (s : State) (b : BufId) (body : Cmd) :
    (s.status.err = true ∧ s.run (some b) body = s) ∨
    (s.status.err = false ∧ s.capacity b < s.lengthOf b ∧
      s.run (some b) body = s.faulted .capacity (bufLenOffset b)) ∨
    (s.status.err = false ∧ s.Fits b ∧ s.run (some b) body = s.issued.settle (body s.issued)) := by
  cases h : s.status.err with
  | true => exact .inl ⟨rfl, s.run_of_err _ body h⟩
  | false =>
    rcases Nat.lt_or_ge (s.capacity b) (s.lengthOf b) with hb | hb
    · exact .inr (.inl ⟨rfl, hb, State.run_of_too_long body h hb⟩)
    · exact .inr (.inr ⟨rfl, hb, State.run_of_fits body h hb⟩)

@[simp] theorem State.settle_ok (s t : State) : s.settle (.ok t) = t := rfl

@[simp] theorem State.settle_error (s : State) (r : Raise) : s.settle (.error r) = s.raise r := rfl

/-! ## Capacity and output -/

/-- The capacity check. -/
theorem State.checkCapacity_of_le {s : State} {b : BufId} {n : Nat} (h : n ≤ s.capacity b) :
    s.checkCapacity b n = .ok () := by
  simp [State.checkCapacity, Nat.not_lt.2 h]

theorem State.checkCapacity_of_lt {s : State} {b : BufId} {n : Nat} (h : s.capacity b < n) :
    s.checkCapacity b n = .error (Raise.of .capacity (bufLenOffset b)) := by
  simp [State.checkCapacity, h]

/-- `Out(BITBUF, v)` and completion, when it fits. -/
theorem State.outBits_of_le {s : State} {v : Bits} (f : Flags) (h : v.length ≤ s.impl.capBits) :
    s.outBits v f = .ok ((s.putBits v).complete f) := by
  rw [State.outBits, State.checkCapacity_of_le (b := .bit) h]

theorem State.outBits_of_lt {s : State} {v : Bits} (f : Flags) (h : s.impl.capBits < v.length) :
    s.outBits v f = .error (Raise.of .capacity 0x64) := by
  rw [State.outBits, State.checkCapacity_of_lt (b := .bit) h]
  rfl

/-- `Out(BYTEBUF, v)` and completion, when it fits. -/
theorem State.outBytes_of_le {s : State} {v : List Byte} (f : Flags) (h : v.length ≤ s.impl.capBytes) :
    s.outBytes v f = .ok ((s.putBytes v).complete f) := by
  rw [State.outBytes, State.checkCapacity_of_le (b := .byte) h]

theorem State.outBytes_of_lt {s : State} {v : List Byte} (f : Flags) (h : s.impl.capBytes < v.length) :
    s.outBytes v f = .error (Raise.of .capacity 0x60) := by
  rw [State.outBytes, State.checkCapacity_of_lt (b := .byte) h]
  rfl

/-- `Out(SAMPBUF, finish(w))` and completion, when it fits. -/
theorem State.outWave_of_le {R D : Type} {s : State} (E : Env R D) {n : Nat} (w : List F32)
    (h : 2 * s.pad.toNat + n ≤ s.impl.capSamples) :
    s.outWave E n w = .ok (((s.putSamples (s.noised E (s.padded w))).drawn (2 * s.pad.toNat + n)).complete
      { empty := 2 * s.pad.toNat + n == 0 }) := by
  rw [State.outWave, State.checkCapacity_of_le (b := .samp) h]

theorem State.outWave_of_lt {R D : Type} {s : State} (E : Env R D) {n : Nat} (w : List F32)
    (h : s.impl.capSamples < 2 * s.pad.toNat + n) : s.outWave E n w = .error (Raise.of .capacity 0x68) := by
  rw [State.outWave, State.checkCapacity_of_lt (b := .samp) h]
  rfl

/-- The capacities are in the spec's ranges, so every length that fits is a 32-bit number. -/
theorem Params.ok_bounds {p : Params} (h : p.ok = true) :
    p.capBytes ≤ 2 ^ 20 ∧ p.capBits ≤ 2 ^ 20 ∧ p.capSamples ≤ 2 ^ 22 := by
  simp only [Params.ok, Bool.and_eq_true, decide_eq_true_eq] at h
  omega

/-! ## Checks -/

@[simp] theorem need_true (code : ErrCode) (info : Nat) : need true code info = .ok () := rfl

@[simp] theorem need_false (code : ErrCode) (info : Nat) : need false code info = .error (Raise.of code info) := rfl

/-- A run of checks passes exactly when each of them does. -/
theorem firstFailure_ok_iff (l : List (Except Raise Unit)) : firstFailure l = .ok () ↔ ∀ c ∈ l, c = .ok () := by
  induction l with
  | nil => simp [firstFailure]
  | cons c rest ih =>
    cases c with
    | error r => simp [firstFailure]
    | ok u => simp [firstFailure, ih]

/-- The first failing check is the one reported. -/
theorem firstFailure_append_error (before after : List (Except Raise Unit)) (r : Raise)
    (h : ∀ c ∈ before, c = .ok ()) : firstFailure (before ++ .error r :: after) = .error r := by
  induction before with
  | nil => rfl
  | cons c rest ih =>
    rw [h c List.mem_cons_self]
    exact ih fun c hc => h c (List.mem_cons_of_mem _ hc)

/-- `HAM_DSIZE` usable. -/
theorem State.checkHam_of_ok {s : State} (h : s.HamOk) : s.checkHam = .ok () := by
  simp [State.checkHam, need, h]

theorem State.checkHam_of_not_ok {s : State} (h : ¬ s.HamOk) : s.checkHam = .error (Raise.of .config 0x10) := by
  have e : (s.hamDSize == 4 || s.hamDSize == 8) = false := by
    rw [Bool.eq_false_iff]
    simpa using h
  rw [State.checkHam, e]
  rfl

/-! ## The waveform -/

/-- The search for an invalid sample finds the first. -/
theorem firstBadSample_eq_none (k : Nat) (l : List F32) :
    firstBadSample k l = none ↔ ∀ x ∈ l, F32.isSample x = true := by
  induction l generalizing k with
  | nil => simp [firstBadSample]
  | cons x rest ih =>
    simp only [firstBadSample]
    split
    · simp_all
    · simp_all

theorem firstBadSample_append (k : Nat) (before after : List F32) (x : F32)
    (h : ∀ y ∈ before, F32.isSample y = true) (hx : F32.isSample x = false) :
    firstBadSample k (before ++ x :: after) = some (k + before.length) := by
  induction before generalizing k with
  | nil => simp [firstBadSample, hx]
  | cons y rest ih =>
    have hy := h y List.mem_cons_self
    simp only [List.cons_append, firstBadSample, hy, if_true]
    rw [ih (k + 1) fun z hz => h z (List.mem_cons_of_mem _ hz)]
    simp only [List.length_cons]
    congr 1
    omega

/-- The samples of a state are what its elements are. -/
theorem State.samples_ok_iff (s : State) : (∀ x ∈ s.samples, F32.isSample x = true) ↔ s.SamplesOk := by
  simp [State.samples]

/-- A waveform all of whose elements are valid. -/
theorem State.checkedSamples_of_ok {s : State} (h : s.SamplesOk) : s.checkedSamples = .ok s.samples := by
  rw [State.checkedSamples, (firstBadSample_eq_none 0 s.samples).2 (s.samples_ok_iff.2 h)]

/-- A non-empty waveform all of whose elements are valid. -/
theorem State.waveform_of_ok {s : State} (h : s.SamplesOk) (hn : 0 < s.sampLen.toNat) : s.waveform = .ok s.samples := by
  have hne : s.samples.isEmpty = false := by
    cases e : s.samples with
    | nil =>
      have := s.length_samples
      rw [e] at this
      simp at this
      omega
    | cons x rest => rfl
  rw [State.waveform, State.checkedSamples_of_ok h]
  simp [hne]

/-- An empty waveform. -/
theorem State.waveform_of_empty {s : State} (hn : s.sampLen.toNat = 0) :
    s.waveform = .error (Raise.of .emptyInput 0x68) := by
  have e : s.samples = [] := List.eq_nil_of_length_eq_zero (by simpa using hn)
  simp [State.waveform, State.checkedSamples, e, firstBadSample]

/-! ## The scan -/

/-- The exhaustive scan keeps every valid offset (46_offset_sync.md R163). -/
theorem scanOffsets_exhaustive (dec : Nat → Except Raise (Bits × Bool)) (val : Nat → Bits × Bool) (l valid : List Nat)
    (h : ∀ o ∈ l, dec o = .ok (val o)) :
    scanOffsets dec true l valid = .ok (valid ++ l.filter fun o => !(val o).1.isEmpty) := by
  induction l generalizing valid with
  | nil => simp [scanOffsets]
  | cons o rest ih =>
    simp only [scanOffsets, h o List.mem_cons_self]
    have ih' := fun v => ih v fun o ho => h o (List.mem_cons_of_mem _ ho)
    by_cases e : (val o).1.isEmpty = true
    · simp [e, ih']
    · simp [e, ih']

/-! ## One access -/

/-- What a step can do: nothing when no access is left, else the access. -/
theorem step_cases (s : State) :
    (s.host = [] ∧ step s = .next s) ∨ ∃ a rest, s.host = a :: rest ∧ step s = State.access { s with host := rest } a := by
  cases h : s.host with
  | nil => exact .inl ⟨rfl, by simp [step, h]⟩
  | cons a rest => exact .inr ⟨a, rest, rfl, by simp [step, h]⟩

/-- The state a command is placed in for the next step. -/
theorem State.withFetchWord_host (s : State) (nbits w : Nat) :
    (s.withFetchWord nbits w).host = .writeReg 0 (BitVec.ofNat 32 (w % 2 ^ nbits)) :: s.host := rfl

end Sys2Proof.Machine
end

