-- ==== Sys2Proof/Laws/Operands.lean ====
section
/-!
SUPPORT. The laws of sequences cut into pieces, of numbers written as bits, of noise, of `toF32`, of
the configuration checks and of clamping.
-/

namespace Sys2Proof.Machine

/-! ## Sequences -/

theorem length_slice {α : Type} (s : List α) (a b : Nat) : (slice s a b).length = min (b - a) (s.length - a) := by
  simp [slice]

theorem getElem?_slice {α : Type} (s : List α) (a b i : Nat) :
    (slice s a b)[i]? = if i < b - a then s[a + i]? else none := by
  simp [slice, List.getElem?_take]

@[simp] theorem length_pieces {α : Type} (n : Nat) (s : List α) : (pieces n s).length = s.length / n := by
  simp [pieces]

theorem getElem_pieces {α : Type} (n : Nat) (s : List α) (c : Nat) (h : c < (pieces n s).length) :
    (pieces n s)[c] = slice s (c * n) ((c + 1) * n) := by
  simp [pieces]

@[simp] theorem length_bitsOfNat (n v : Nat) : (bitsOfNat n v).length = n := by simp [bitsOfNat]

theorem getElem_bitsOfNat (n v i : Nat) (h : i < (bitsOfNat n v).length) :
    (bitsOfNat n v)[i] = v.testBit (n - 1 - i) := by
  simp [bitsOfNat]

theorem windowStarts_mem (d : Nat) (b : Bits) (i : Nat) : i ∈ windowStarts d b ↔ i + markerLen d ≤ b.length := by
  simp only [windowStarts]
  split <;> simp <;> omega

/-- Matching at a place is what `MatchesAt` says of it (43_framing.md R118). -/
theorem matchesAt_iff (d : Nat) (b : Bits) (k : Marker) (i : Nat) :
    MatchesAt d b k i ↔ i ∈ windowStarts d b ∧ matchAt d b i k = true := by
  simp [MatchesAt, windowStarts_mem, matchAt]

@[simp] theorem length_windows (sps : Nat) (wv : List F32) (off : Nat) :
    (windows sps wv off).length = nWin sps wv off := by
  simp [windows]

@[simp] theorem length_tone {R : Type} (A : Arith R) (f : R) (fs n : Nat) : (tone A f fs n).length = n := by
  simp [tone]

@[simp] theorem length_noisySamples {D : Type} (X : RealOps D) (draw : Nat → D) (g : Bool) (level : F32) (k : Nat)
    (w : List F32) : (noisySamples X draw g level k w).length = w.length := by
  induction w generalizing k with
  | nil => rfl
  | cons x rest ih => simp [noisySamples, ih]

@[simp] theorem length_addNoise {D : Type} (X : RealOps D) (draw : Nat → D) (g : Bool) (level : F32)
    (w : List F32) : (addNoise X draw g level w).length = w.length := by
  simp only [addNoise]
  split <;> simp

/-- Sample `i` of a noisy waveform takes draw `k + i` of the sequence. -/
theorem getElem?_noisySamples {D : Type} (X : RealOps D) (draw : Nat → D) (g : Bool) (level : F32) (k : Nat)
    (w : List F32) (i : Nat) :
    (noisySamples X draw g level k w)[i]? = w[i]?.map fun x => noisySample X g level x (draw (k + i)) := by
  induction w generalizing k i with
  | nil => simp [noisySamples]
  | cons x rest ih =>
    cases i with
    | zero => simp [noisySamples]
    | succ i => simp [noisySamples, ih, Nat.add_assoc, Nat.add_comm 1 i]

/-! ## `toF32` (10_state.md R29) -/

theorem storeLaws_toF32 (N : Numerics) : StoreLaws N.toF32 := N.lawful.choose_spec.1

/-- A datum of the tone and detector datapaths is stored as the real number it stands for. -/
theorem arith_toF32 (N : Numerics) (r : N.Num) : N.arith.toF32 r = N.toF32 (N.real r) :=
  N.lawful.choose_spec.2.1.toF32_store r

/-- A number of the noise injector likewise. -/
theorem reals_toF32 (N : Numerics) (d : N.Draw) : N.reals.toF32 d = N.toF32 (N.drawReal d) :=
  N.lawful.choose_spec.2.2.toF32_store d

/-! ## The configuration checks -/

/-- `checkScheme` passes when the registers are as 70_reset_and_hazards.md R215 wants them. -/
theorem State.checkScheme_of_ok {s : State} {sch : Scheme} {role : Role} (w : Word) (h : s.SchemeConfigOk sch role) :
    s.checkScheme sch role w = .ok () := by
  have hr : s.RatesOk := by cases role <;> exact h.1
  have hs : s.SchemeOk sch := by cases role <;> simp only [State.SchemeConfigOk] at h <;> tauto
  rw [State.checkScheme.eq_def, firstFailure_ok_iff]
  simp only [List.mem_append, List.mem_cons, List.not_mem_nil, or_false]
  rintro c (((hc | hc) | hc) | hc)
  · cases sch with
    | tb =>
      have : s.impl.tbPresent = true := hs
      simp_all
    | fsk => simp at hc
    | qpsk => simp at hc
  · rcases hc with rfl | rfl <;> simp [State.checkRate, State.checkSymRate, hr]
  · cases sch with
    | tb => simp [State.freqChecks] at hc
    | fsk =>
      obtain ⟨h0, h1⟩ := hs
      simp only [State.freqChecks, List.mem_cons, List.not_mem_nil, or_false] at hc
      rcases hc with rfl | rfl <;> simp [h0, h1]
    | qpsk =>
      obtain ⟨⟨hb, hm⟩, hd⟩ := hs
      have m0 := hm 0 (by omega)
      have m1 := hm 1 (by omega)
      have m2 := hm 2 (by omega)
      have m3 := hm 3 (by omega)
      have d10 := hd 1 (by omega) 0 (by omega)
      have d20 := hd 2 (by omega) 0 (by omega)
      have d21 := hd 2 (by omega) 1 (by omega)
      have d30 := hd 3 (by omega) 0 (by omega)
      have d31 := hd 3 (by omega) 1 (by omega)
      have d32 := hd 3 (by omega) 2 (by omega)
      simp only [State.qpskMult] at m0 m1 m2 m3 d10 d20 d21 d30 d31 d32
      simp only [State.freqChecks, List.mem_cons, List.not_mem_nil, or_false] at hc
      rcases hc with rfl | rfl | rfl | rfl | rfl | rfl | rfl | rfl <;> simp [*]
  · cases role with
    | modulate =>
      have : F32.isNonneg s.level = true := h.2.2
      simp only [List.mem_cons, List.not_mem_nil, or_false] at hc
      subst hc
      simp [State.checkLevel, this]
    | demodulate => simp at hc
    | framed =>
      simp only [List.mem_cons, List.not_mem_nil, or_false] at hc
      subst hc
      exact State.checkHam_of_ok h.2.2

/-! ## Clamping -/

/-- What clamping leaves, whatever the numbers of the noise injector are. -/
theorem real_clampTo {D : Type} {X : RealOps D} {real : D → ℝ} {store : ℝ → F32} (h : X.Lawful real store) (lo hi r : D)
    (hlh : real lo ≤ real hi) : real (clampTo X lo hi r) = max (real lo) (min (real hi) (real r)) := by
  have g := h.gt_iff
  simp only [clampTo]
  split
  · rename_i h1
    have := (g lo r).1 h1
    rw [min_eq_right (by linarith), max_eq_left (by linarith)]
  · rename_i h1
    have h1' : real lo ≤ real r := not_lt.1 fun hl => h1 ((g lo r).2 hl)
    split
    · rename_i h2
      have := (g r hi).1 h2
      rw [min_eq_left (by linarith), max_eq_right (by linarith)]
    · rename_i h2
      have h2' : real r ≤ real hi := not_lt.1 fun hl => h2 ((g r hi).2 hl)
      rw [min_eq_right h2', max_eq_right h1']

end Sys2Proof.Machine
end

