-- ==== Sys2Proof/Laws/PerInstr.lean ====
section
/-!
SUPPORT. Statements made of each instruction: the fields of its word are well formed, its reserved bits are 0 and its
opcode's high nibble is a family of 30_encoding.md R61.
-/

namespace Sys2Proof.Laws.EncodedFields

/-- The word of a command has the command's opcode and `arg`, zeros above them, and is well formed (R60 to R62). -/
def Statement (i : Instr) : Prop :=
  (fieldsOf (encode i)).wf = true ∧ (fieldsOf (encode i)).opcode = i.opcode ∧ (fieldsOf (encode i)).arg = i.arg ∧
    (fieldsOf (encode i)).reserved = 0 ∧ i.opcode.toNat / 16 ≤ 8 ∧ i.wf = true

theorem nop : Statement .nop := by
  simp only [Statement]
  decide

theorem reset : Statement .reset := by
  simp only [Statement]
  decide

theorem clrErr : Statement .clrErr := by
  simp only [Statement]
  decide

theorem bytes2Bits : Statement .bytes2Bits := by
  simp only [Statement]
  decide

theorem bits2BytesT : Statement .bits2BytesT := by
  simp only [Statement]
  decide

theorem bits2BytesS : Statement .bits2BytesS := by
  simp only [Statement]
  decide

theorem hamEnc : Statement .hamEnc := by
  simp only [Statement]
  decide

theorem hamDec : Statement .hamDec := by
  simp only [Statement]
  decide

theorem rsEnc : Statement .rsEnc := by
  simp only [Statement]
  decide

theorem rsDec : Statement .rsDec := by
  simp only [Statement]
  decide

theorem frmMarkS : Statement .frmMarkS := by
  simp only [Statement]
  decide

theorem frmMarkE : Statement .frmMarkE := by
  simp only [Statement]
  decide

theorem frmWrap : Statement .frmWrap := by
  simp only [Statement]
  decide

theorem frmStripL : Statement .frmStripL := by
  simp only [Statement]
  decide

theorem frmStripT : Statement .frmStripT := by
  simp only [Statement]
  decide

theorem frmUnwrap : Statement .frmUnwrap := by
  simp only [Statement]
  decide

theorem fskMod : Statement .fskMod := by
  simp only [Statement]
  decide

theorem qpskMod : Statement .qpskMod := by
  simp only [Statement]
  decide

theorem tbMod : Statement .tbMod := by
  simp only [Statement]
  decide

theorem fskDem : Statement .fskDem := by
  simp only [Statement]
  decide

theorem qpskDem : Statement .qpskDem := by
  simp only [Statement]
  decide

theorem tbDem : Statement .tbDem := by
  simp only [Statement]
  decide

theorem fskDecode : Statement .fskDecode := by
  simp only [Statement]
  decide

theorem qpskDecode : Statement .qpskDecode := by
  simp only [Statement]
  decide

theorem tbDecode : Statement .tbDecode := by
  simp only [Statement]
  decide

theorem goertzel : Statement .goertzel := by
  simp only [Statement]
  decide

theorem fskSync : Statement .fskSync := by
  simp only [Statement]
  decide

theorem qpskSync : Statement .qpskSync := by
  simp only [Statement]
  decide

theorem tbSync : Statement .tbSync := by
  simp only [Statement]
  decide

theorem noiseAdd : Statement .noiseAdd := by
  simp only [Statement]
  decide

end Sys2Proof.Laws.EncodedFields
end

