-- ==== Sys2Proof/Tests/Slice0.lean ====
section
/-!
SUPPORT. Tests of one step each, with results taken from the spec (95_test_vectors.md, the examples in the rules) or
worked out by hand from the rules; the words of the thirty commands written out bit by bit (30_encoding.md R60, R62); and
for every statement with hypotheses a state that meets them.
-/

namespace Sys2Proof.Tests

open Sys2Proof Sys2Proof.Machine

set_option Elab.async false

/-! ## WellFormed: an ill-formed term for each check -/

theorem test_wf_reserved_bits_refused : (fieldsOf 0x00010010).wf = false := by decide

theorem test_wf_unlisted_opcode_refused : (fieldsOf 0x00000003).wf = false := by decide

theorem test_wf_unlisted_arg_refused : (fieldsOf 0x00000120).wf = false := by decide

theorem test_wf_scheme_arg_refused : (fieldsOf 0x00000350).wf = false := by decide

theorem test_wf_misaligned_register_refused : (HostAccess.readReg 0x12).wf = false := by decide

theorem test_wf_misaligned_sample_refused : (HostAccess.busWrite 0x1000002 0).wf = false := by decide

theorem test_wf_byte_window_accepted : (HostAccess.busWrite 0x100003 0).wf = true := by decide

theorem test_decode_names_reserved : decode 0x00010010 = .error .reservedBits := by rfl

theorem test_decode_names_opcode : decode 0x00000003 = .error .unlistedOpcode := by rfl

theorem test_decode_names_arg : decode 0x00000240 = .error .unlistedArg := by rfl

/-! ## Decoding: reserved (16 bits), arg (8), opcode (8) of each command, written out from R62 -/

theorem test_decode_nop : decode (0b0000000000000000#16 ++ (0b00000000#8 ++ 0b00000000#8)) = .ok .nop := by rfl

theorem test_decode_reset : decode (0b0000000000000000#16 ++ (0b00000000#8 ++ 0b00000001#8)) = .ok .reset := by rfl

theorem test_decode_clrErr : decode (0b0000000000000000#16 ++ (0b00000000#8 ++ 0b00000010#8)) = .ok .clrErr := by rfl

theorem test_decode_bytes2Bits : decode (0b0000000000000000#16 ++ (0b00000000#8 ++ 0b00010000#8)) = .ok .bytes2Bits := by rfl

theorem test_decode_bits2BytesT : decode (0b0000000000000000#16 ++ (0b00000000#8 ++ 0b00010001#8)) = .ok .bits2BytesT := by rfl

theorem test_decode_bits2BytesS : decode (0b0000000000000000#16 ++ (0b00000001#8 ++ 0b00010001#8)) = .ok .bits2BytesS := by rfl

theorem test_decode_hamEnc : decode (0b0000000000000000#16 ++ (0b00000000#8 ++ 0b00100000#8)) = .ok .hamEnc := by rfl

theorem test_decode_hamDec : decode (0b0000000000000000#16 ++ (0b00000000#8 ++ 0b00100001#8)) = .ok .hamDec := by rfl

theorem test_decode_rsEnc : decode (0b0000000000000000#16 ++ (0b00000000#8 ++ 0b00110000#8)) = .ok .rsEnc := by rfl

theorem test_decode_rsDec : decode (0b0000000000000000#16 ++ (0b00000000#8 ++ 0b00110001#8)) = .ok .rsDec := by rfl

theorem test_decode_frmMarkS : decode (0b0000000000000000#16 ++ (0b00000000#8 ++ 0b01000000#8)) = .ok .frmMarkS := by rfl

theorem test_decode_frmMarkE : decode (0b0000000000000000#16 ++ (0b00000001#8 ++ 0b01000000#8)) = .ok .frmMarkE := by rfl

theorem test_decode_frmWrap : decode (0b0000000000000000#16 ++ (0b00000000#8 ++ 0b01000001#8)) = .ok .frmWrap := by rfl

theorem test_decode_frmStripL : decode (0b0000000000000000#16 ++ (0b00000000#8 ++ 0b01000010#8)) = .ok .frmStripL := by rfl

theorem test_decode_frmStripT : decode (0b0000000000000000#16 ++ (0b00000000#8 ++ 0b01000011#8)) = .ok .frmStripT := by rfl

theorem test_decode_frmUnwrap : decode (0b0000000000000000#16 ++ (0b00000000#8 ++ 0b01000100#8)) = .ok .frmUnwrap := by rfl

theorem test_decode_fskMod : decode (0b0000000000000000#16 ++ (0b00000000#8 ++ 0b01010000#8)) = .ok .fskMod := by rfl

theorem test_decode_qpskMod : decode (0b0000000000000000#16 ++ (0b00000001#8 ++ 0b01010000#8)) = .ok .qpskMod := by rfl

theorem test_decode_tbMod : decode (0b0000000000000000#16 ++ (0b00000010#8 ++ 0b01010000#8)) = .ok .tbMod := by rfl

theorem test_decode_fskDem : decode (0b0000000000000000#16 ++ (0b00000000#8 ++ 0b01010001#8)) = .ok .fskDem := by rfl

theorem test_decode_qpskDem : decode (0b0000000000000000#16 ++ (0b00000001#8 ++ 0b01010001#8)) = .ok .qpskDem := by rfl

theorem test_decode_tbDem : decode (0b0000000000000000#16 ++ (0b00000010#8 ++ 0b01010001#8)) = .ok .tbDem := by rfl

theorem test_decode_fskDecode : decode (0b0000000000000000#16 ++ (0b00000000#8 ++ 0b01010010#8)) = .ok .fskDecode := by rfl

theorem test_decode_qpskDecode : decode (0b0000000000000000#16 ++ (0b00000001#8 ++ 0b01010010#8)) = .ok .qpskDecode := by rfl

theorem test_decode_tbDecode : decode (0b0000000000000000#16 ++ (0b00000010#8 ++ 0b01010010#8)) = .ok .tbDecode := by rfl

theorem test_decode_goertzel : decode (0b0000000000000000#16 ++ (0b00000000#8 ++ 0b01100000#8)) = .ok .goertzel := by rfl

theorem test_decode_fskSync : decode (0b0000000000000000#16 ++ (0b00000000#8 ++ 0b01110000#8)) = .ok .fskSync := by rfl

theorem test_decode_qpskSync : decode (0b0000000000000000#16 ++ (0b00000001#8 ++ 0b01110000#8)) = .ok .qpskSync := by rfl

theorem test_decode_tbSync : decode (0b0000000000000000#16 ++ (0b00000010#8 ++ 0b01110000#8)) = .ok .tbSync := by rfl

theorem test_decode_noiseAdd : decode (0b0000000000000000#16 ++ (0b00000000#8 ++ 0b10000000#8)) = .ok .noiseAdd := by rfl

/-! ## Small states -/

/-- The state an outcome leaves. -/
def after (o : Host.Outcome State Fault Refusal) : State :=
  match o with
  | .next t => t
  | .fault _ | .refused _ => State.reset

/-- A state with bits in `BITBUF`. -/
def loadBits (b : Bits) (s : State) : State :=
  { s with bitBuf := { cells := cellsFrom 0 b }, bitLen := BitVec.ofNat 32 b.length }

/-- A state with bytes in `BYTEBUF`. -/
def loadBytes (b : List Byte) (s : State) : State :=
  { s with byteBuf := { cells := cellsFrom 0 b }, byteLen := BitVec.ofNat 32 b.length }

/-- A state with samples in `SAMPBUF`. -/
def loadSamples (b : List F32) (s : State) : State :=
  { s with sampBuf := { cells := cellsFrom 0 b }, sampLen := BitVec.ofNat 32 b.length }

/-- `HAM_DSIZE = 8`, four samples a symbol, FSK tones at 1 and 2 Hz, QPSK tones at 1, 2, 3, 4 Hz. -/
def small : State :=
  { State.reset with
    cfg := 8, rate := 4, symRate := 1, fskF0 := 0x3F800000, fskF1 := 0x40000000, qpskBase := 0x3F800000,
    qpskMult0 := 0x3F800000, qpskMult1 := 0x40000000, qpskMult2 := 0x40400000, qpskMult3 := 0x40800000 }

/-- The state with a fault pending. -/
def pending : State :=
  { State.reset with status := { Status.clear with err := true, errCode := .length }, errInfo := 15, cfg := 8 }

/-- The samples 1, 0.5, -0.5 and -1. -/
def one : F32 := 0x3F800000
def half : F32 := 0x3F000000
def negHalf : F32 := 0xBF000000
def negOne : F32 := 0xBF800000

/-! A number format the tests can evaluate: the rationals, with the sines and cosines of quarter turns, the roots of the
squares of small numbers and the storing of the few values the tests store. -/

/-- The quarter turn a rational is, 0 to 3. -/
def quarter (q : ℚ) : Nat := (q * 4).floor.toNat % 4

def testArith : Arith ℚ where
  val := F32.rat
  ofNat := fun n => (n : ℚ)
  toF32 := fun q =>
    if q = 0 then 0 else if q = 1 then one else if q = -1 then negOne else if q = 1 / 2 then half
    else if q = 3 / 4 then 0x3F400000 else if q = 2 then 0x40000000 else if q = 4 then 0x40800000 else 0x7FC00000
  cos2pi := fun q => [1, 0, -1, 0].getD (quarter q) 0
  sin2pi := fun q => [0, 1, 0, -1].getD (quarter q) 0
  sqrt := fun q =>
    let root : Option Nat := (List.range 20).find? fun n : Nat => decide ((n : ℚ) * (n : ℚ) = q)
    (root.getD 99 : Nat)
  add := fun a b => a + b
  sub := fun a b => a - b
  mul := fun a b => a * b
  div := fun a b => a / b
  gt := fun a b => decide (b < a)
  roundInt := fun tie q =>
    let k := q.floor.toNat
    if q - k < 1 / 2 then k else if 1 / 2 < q - k then k + 1
    else match tie with
      | .halfEven => if k % 2 = 0 then k else k + 1
      | .halfAway => k + 1

/-- The rationals as the numbers of the noise injector, stored as above. -/
def testReals : RealOps ℚ := { Numerics.ratReals with toF32 := testArith.toF32 }

/-- The codec of 95_test_vectors.md V48. -/
def testEnv (draws : List ℚ) : Env ℚ ℚ where
  arith := testArith
  reals := testReals
  draw := fun n => draws.getD n 0
  tbMod := fun b _ _ => some (b.map fun x => if x then half else negHalf)
  tbDem := fun w _ _ off => some ((w.drop off).map fun x => decide (0 < F32.units x))

/-- The 60-bit frame of V38. -/
def tFrame : Bits := bitsOfNat 60 0x9A3C120B4D03C85

/-- A codec that finds V38's frame at offsets 0 and 1, another frame at 3 and nothing at 2. -/
def syncEnv : Env ℚ ℚ where
  arith := testArith
  reals := testReals
  draw := fun _ => 0
  tbMod := fun _ _ _ => none
  tbDem := fun _ _ _ off => if off = 2 then some [] else if off = 3 then some (bitsOfNat 56 0x9A3C12FFD03C85) else some tFrame

/-- Eight samples, 0, 1, 0, -1 and 1, -1, 1, -1. -/
def v42 : State := loadSamples [0, one, 0, negOne, one, negOne, one, negOne] small

/-! ## One step of each command -/

/-- R178's example. -/
theorem test_nop_clears_result_flags :
    (after (exec .nop { State.reset with status := { Status.clear with done := true, found := true } })).status.word = 2 := by
  decide +kernel

/-- R179's example. -/
theorem test_reset_clears_fault :
    (after (exec .reset pending)).status.word = 0 ∧ (after (exec .reset pending)).errInfo = 0 ∧
      (after (exec .reset pending)).cfg = 0 := by
  decide +kernel

/-- R180's example. -/
theorem test_clrErr_clears_fault :
    pending.status.word = 0x404 ∧ (after (exec .clrErr pending)).status.word = 2 ∧
      (after (exec .clrErr pending)).errInfo = 0 := by
  decide +kernel

/-- R197: an ordinary command is refused while a fault is pending. -/
theorem test_pending_fault_refuses : after (exec .bytes2Bits pending) = pending := by decide +kernel

/-- V1. -/
theorem test_bytes2Bits :
    (after (exec .bytes2Bits (loadBytes [0x54, 0x45, 0x53, 0x54] small))).bits = bitsOfNat 32 0x54455354 := by
  decide +kernel

/-- V2. -/
theorem test_bytes2Bits_empty : (after (exec .bytes2Bits small)).status.word = 0x0A := by decide +kernel

/-- V3. -/
theorem test_bits2BytesT_truncates :
    (after (exec .bits2BytesT (loadBits (bitsOfNat 15 0b010100110000001) small))).bytes = [0x53] := by
  decide +kernel

/-- V4. -/
theorem test_bits2BytesT_short :
    (after (exec .bits2BytesT (loadBits (bitsOfNat 7 0b0101001) small))).status.word = 0x0A := by
  decide +kernel

/-- V5. -/
theorem test_bits2BytesS_refuses :
    let t := after (exec .bits2BytesS (loadBits (bitsOfNat 15 0b010100110000001) small))
    t.status.word = 0x404 ∧ t.errInfo = 15 ∧ t.bitLen = 15 := by
  decide +kernel

/-- V6. -/
theorem test_bits2BytesS :
    (after (exec .bits2BytesS (loadBits (bitsOfNat 16 0x5302) small))).bytes = [0x53, 0x02] := by
  decide +kernel

/-- V10. -/
theorem test_hamEnc_four :
    (after (exec .hamEnc (loadBits (bitsOfNat 8 0b01010100) { small with cfg := 4 }))).bits =
      bitsOfNat 14 0b01001011001100 := by
  decide +kernel

/-- The word of `S` in the table of 95_test_vectors.md section 2.2. -/
theorem test_hamEnc_eight :
    (after (exec .hamEnc (loadBits (bitsOfNat 8 0x53) small))).bits = bitsOfNat 12 0b100110100011 := by
  decide +kernel

/-- V16: a double error whose syndrome, 15, is out of range. -/
theorem test_hamDec_out_of_range :
    (after (exec .hamDec (loadBits (bitsOfNat 12 0b100100100111) small))).bits = bitsOfNat 8 0b00010111 := by
  decide +kernel

/-- V18. -/
theorem test_hamDec_wrong_length :
    let t := after (exec .hamDec (loadBits (bitsOfNat 13 0b1001101000111) small))
    t.status.word = 0x8A ∧ t.bitLen = 0 := by
  decide +kernel

/-- V23. -/
theorem test_rsEnc :
    (after (exec .rsEnc (loadBytes [0x54, 0x45, 0x53, 0x54] small))).bytes =
      [0x00, 0x04, 0x54, 0x45, 0x53, 0x54, 0x06, 0x9B, 0x99, 0x2E, 0x01, 0x02, 0x75, 0x4E] := by
  decide +kernel

/-- V26: four byte errors. -/
theorem test_rsDec_four_errors :
    let t := after (exec .rsDec (loadBytes
      [0x55, 0x04, 0xAB, 0x45, 0x53, 0x55, 0x06, 0x9B, 0x99, 0x2E, 0x01, 0x02, 0x75, 0xCE] small))
    t.bytes = [0x54, 0x45, 0x53, 0x54] ∧ t.status.word = 0x22 := by
  decide +kernel

/-- V29: a codeword whose length prefix claims too much. -/
theorem test_rsDec_long_prefix :
    let t := after (exec .rsDec (loadBytes [0x00, 0x09, 0x41, 0x3C, 0x74, 0xEA, 0x6D, 0x8E, 0xE7, 0x0B, 0xE5] small))
    t.byteLen = 11 ∧ t.status.word = 0x62 := by
  decide +kernel

/-- 95_test_vectors.md section 2.4. -/
theorem test_frmMarkS : (after (exec .frmMarkS small)).bits = bitsOfNat 24 0b100110100011110000010010 := by
  decide +kernel

/-- 95_test_vectors.md section 2.4, d = 4. -/
theorem test_frmMarkE :
    (after (exec .frmMarkE { small with cfg := 4 })).bits = bitsOfNat 28 0b0000000100001110011000100101 := by
  decide +kernel

/-- V38. -/
theorem test_frmWrap :
    (after (exec .frmWrap (loadBits (bitsOfNat 12 0b000010110100) small))).bits =
      bitsOfNat 60 0b100110100011110000010010000010110100110100000011110010000101 := by
  decide +kernel

/-- V35: one error in each block of the marker. -/
theorem test_frmStripL_damaged :
    let t := after (exec .frmStripL (loadBits (bitsOfNat 28 0b1011101000111100000100110101) small))
    t.bits = bitsOfNat 4 0b0101 ∧ t.status.word = 0x12 := by
  decide +kernel

/-- R120's example. -/
theorem test_frmStripT :
    let t := after (exec .frmStripT (loadBits (bitsOfNat 29 0b01011101000000111100100001011) small))
    t.bits = bitsOfNat 4 0b0101 ∧ t.status.word = 0x12 := by
  decide +kernel

/-- V34: both markers with nothing between them. -/
theorem test_frmUnwrap_empty_payload :
    let t := after (exec .frmUnwrap (loadBits (bitsOfNat 48 0x9A3C12D03C85) small))
    t.bitLen = 0 ∧ t.status.word = 0x1A := by
  decide +kernel

/-- V38 and R121. -/
theorem test_frmUnwrap : (after (exec .frmUnwrap (loadBits tFrame small))).bits = bitsOfNat 12 0b000010110100 := by
  decide +kernel

/-- R132, by hand: bit 0 is 1 Hz at 4 Hz, so 0, 1, 0, -1; bit 1 is 2 Hz, half the rate, so silence; one sample of padding
at each end. -/
theorem test_fskMod :
    ((loadBits [false, true] { small with pad := 1 }).run (some .bit) (modBody (testEnv []) .fsk 0x50)).samples =
      [0, 0, one, 0, negOne, 0, 0, 0, 0, 0] := by
  decide +kernel

/-- R140: an unusable tone register. -/
theorem test_fskMod_config :
    let t := after (exec .fskMod (loadBits [true] { small with fskF1 := 0x7FC00000 }))
    t.status.word = 0x204 ∧ t.errInfo = 0x1C := by
  decide +kernel

/-- R136's example. -/
theorem test_qpskMod :
    ((loadBits [false, true] { small with rate := 8 }).run (some .bit) (modBody (testEnv []) .qpsk 0x150)).samples =
      [0, one, 0, negOne, 0, one, 0, negOne] := by
  decide +kernel

/-- V47. -/
theorem test_qpskMod_odd :
    let t := after (exec .qpskMod (loadBits [false, true, true] small))
    t.status.word = 0x404 ∧ t.errInfo = 3 := by
  decide +kernel

/-- V48. -/
theorem test_tbMod :
    ((loadBits [true, false] { small with pad := 1 }).run (some .bit) (modBody (testEnv []) .tb 0x250)).samples =
      [0, half, negHalf, 0] := by
  decide +kernel

/-- R141: no codec attached. -/
theorem test_tbMod_absent :
    let t := after (exec .tbMod { small with impl := { Config.initialParams with tbPresent := false } })
    t.status.word = 0x704 ∧ t.errInfo = 0x250 := by
  decide +kernel

/-- V42. -/
theorem test_fskDem : (v42.run (some .samp) (demBody (testEnv []) .fsk 0x51)).bits = [false, true] := by
  decide +kernel

/-- V43: silence, and an offset beyond the buffer. -/
theorem test_fskDem_ties :
    ((loadSamples [0, 0, 0, 0] small).run (some .samp) (demBody (testEnv []) .fsk 0x51)).bits = [false] ∧
      ({ v42 with offset := 9 }.run (some .samp) (demBody (testEnv []) .fsk 0x51)).status.word = 0x0A := by
  decide +kernel

/-- R137, by hand: 0, 1, 0, -1 has magnitude 2 at 1 and 3 Hz and 0 at 2 and 4 Hz, and the lowest key wins; the second
window has magnitude 4 at 2 Hz alone. -/
theorem test_qpskDem :
    (v42.run (some .samp) (demBody (testEnv []) .qpsk 0x151)).bits = [false, false, false, true] := by
  decide +kernel

/-- V48. -/
theorem test_tbDem :
    ((loadSamples [0, half, negHalf, 0] small).run (some .samp) (demBody (testEnv []) .tb 0x251)).bits =
      [false, true, false, false] := by
  decide +kernel

/-- V38's frame in V42's windows (R139): 0, 1, 0, -1 for a 0 and 1, -1, 1, -1 for a 1. -/
theorem test_fskDecode :
    let t := (loadSamples (tFrame.flatMap fun b => if b then [one, negOne, one, negOne] else [0, one, 0, negOne])
      small).run (some .samp) (decodeBody (testEnv []) .fsk 0x52)
    t.bits = bitsOfNat 12 0b000010110100 ∧ t.status.word = 0x12 := by
  decide +kernel

/-- R139: no frame. -/
theorem test_qpskDecode_no_frame :
    (v42.run (some .samp) (decodeBody (testEnv []) .qpsk 0x152)).status.word = 0x0A := by
  decide +kernel

/-- R140: the Hamming size is checked by `DECODE` and not by `DEM`. -/
theorem test_qpskDecode_config :
    (after (exec .qpskDecode { v42 with cfg := 5 })).errInfo = 0x10 := by
  decide +kernel

/-- R139, R142 with a codec that finds V38's frame. -/
theorem test_tbDecode :
    let t := v42.run (some .samp) (decodeBody syncEnv .tb 0x252)
    t.bits = bitsOfNat 12 0b000010110100 ∧ t.status.word = 0x12 := by
  decide +kernel

/-- V60. -/
theorem test_goertzel :
    ((loadSamples [0, one, 0, negOne] { small with freq := 0x3F800000 }).run (some .samp)
      (goertzelBody (testEnv []))).power = 0x40000000 := by
  decide +kernel

/-- R151: the tie of `ROUND_TIE` is observable. -/
theorem test_goertzel_tie :
    let s := loadSamples [one, one, one, one] { small with rate := 8, freq := 0x3F800000 }
    (s.run (some .samp) (goertzelBody (testEnv []))).power = 0x40800000 ∧
      ({ s with impl := { s.impl with roundTie := .halfAway } }.run (some .samp)
        (goertzelBody (testEnv []))).power = 0 := by
  decide +kernel

/-- R160: a buffer too short to hold a frame. -/
theorem test_fskSync_nothing :
    let t := { v42 with syncOff := 5, syncCnt := 2 }.run (some .samp) (syncBody (testEnv []) .fsk 0x70)
    t.syncOff = 0 ∧ t.syncCnt = 0 ∧ t.status.word = 0x0A := by
  decide +kernel

/-- R160: an empty buffer. -/
theorem test_qpskSync_empty :
    let t := after (exec .qpskSync small)
    t.status.word = 0x304 ∧ t.errInfo = 0x68 := by
  decide +kernel

/-- R162, R164, by hand: offsets 0 and 1 are valid, 2 ends the scan, the mean is 0. -/
theorem test_tbSync_first_run :
    let t := v42.run (some .samp) (syncBody syncEnv .tb 0x270)
    t.syncOff = 0 ∧ t.syncCnt = 2 ∧ t.bits = bitsOfNat 12 0b000010110100 ∧ t.status.word = 0x12 := by
  decide +kernel

/-- R163, R164, by hand: offsets 0, 1 and 3 are valid, the mean is 4 div 3 = 1. -/
theorem test_tbSync_exhaustive :
    let t := { v42 with cfg := 0x108 }.run (some .samp) (syncBody syncEnv .tb 0x270)
    t.syncOff = 1 ∧ t.syncCnt = 3 ∧ t.status.word = 0x12 := by
  decide +kernel

/-- R171's example. -/
theorem test_noiseAdd :
    ((loadSamples [half, negOne, one] { small with level := 0x3E800000 }).run (some .samp)
      (noiseAddBody (testEnv [1 / 4, -1 / 4, 1 / 8]))).samples = [0x3F400000, negOne, one] := by
  decide +kernel

/-- R171's example, of any `NUMERICS`: the sum 0.5 + 0.25 is 0.75 exactly, which is a binary32 value. -/
theorem test_noisySample_sum (N : Numerics) (d : N.Draw) (hd : N.drawReal d = 1 / 4) :
    F32.rat (noisySample N.reals false 0x3E800000 half d) = 3 / 4 := by
  obtain ⟨store, hs, -, hX⟩ := N.lawful
  have r (x : F32) (q : ℚ) (hf : F32.isFinite x = true) (h : F32.rat x = q) : N.drawReal (N.reals.val x) = (q : ℝ) := by
    rw [hX.val_real x hf, h]
  have e1 := r (F32.negate 0x3E800000) (-1 / 4) (by decide) (by decide +kernel)
  have e2 := r 0x3E800000 (1 / 4) (by decide) (by decide +kernel)
  have e3 := r F32.negOne (-1) (by decide) (by decide +kernel)
  have e4 := r F32.one 1 (by decide) (by decide +kernel)
  have e5 := r half (1 / 2) (by decide) (by decide +kernel)
  have h34 : F32.rat 0x3F400000 = 3 / 4 := by decide +kernel
  have hd' : N.drawReal (drawIn N.reals false 0x3E800000 d) = 1 / 4 := by
    show N.drawReal (clampTo N.reals _ _ d) = 1 / 4
    rw [real_clampTo hX _ _ _ (by rw [e1, e2]; norm_num), e1, e2, hd]
    norm_num
  have hsum : N.drawReal (clampTo N.reals (N.reals.val F32.negOne) (N.reals.val F32.one)
      (N.reals.add (N.reals.val half) (drawIn N.reals false 0x3E800000 d))) = ((F32.rat 0x3F400000 : ℚ) : ℝ) := by
    rw [real_clampTo hX _ _ _ (by rw [e3, e4]; norm_num), hX.add_real, e3, e4, e5, hd', h34]
    norm_num
  rw [noisySample, hX.toF32_store, hsum, (hs.exact_value _ (by decide)).2, h34]

/-- R54: the first invalid sample, a NaN. -/
theorem test_noiseAdd_bad_sample :
    let t := after (exec .noiseAdd (loadSamples [half, 0x7FC00000, 0x40000000] small))
    t.status.word = 0x604 ∧ t.errInfo = 1 := by
  decide +kernel

/-! ## The host's side -/

/-- R24, R45: the reserved bits of `CFG` stay 0. -/
theorem test_cfg_mask :
    (after (step { State.reset with host := [.writeReg 0x10 0xFFFFFFFF] })).readReg 0x10 = 0x3FF := by
  decide +kernel

/-- R23, R35: `CAPS` after reset. -/
theorem test_reset_caps : State.reset.readReg 0x0C = 7 ∧ State.reset.readReg 0x04 = 0 := by decide +kernel

/-- R46: a buffer write does not change the length. -/
theorem test_host_write_byte :
    let t := after (step { State.reset with host := [.writeByte 3 0xA5] })
    t.byteAt 3 = 0xA5 ∧ t.byteLen = 0 := by
  decide +kernel

/-- R41: the `BITBUF` window, read. -/
theorem test_bus_read_bit :
    (after (step { loadBits [false, true] State.reset with host := [.busRead 0x200001] })).reply = 1 := by
  decide +kernel

/-- R64: an illegal word issued. -/
theorem test_illegal_word :
    let t := after (step { State.reset with host := [.writeReg 0 0x120] })
    t.status.word = 0x104 ∧ t.errInfo = 0x120 := by
  decide +kernel

/-- The word the next step fetches. -/
theorem test_fetch_word :
    (after (step (State.reset.withFetchWord 32 0x10))).status.word = 0x0A ∧ decodeTableWord 32 0x10 = some .bytes2Bits := by
  decide +kernel

/-! ## Witnesses: states and operands that meet the hypotheses of each statement, clause by clause -/

/-- `small` with other capacities. -/
def tight (bytes bits samples : Nat) (s : State) : State :=
  { s with impl := { s.impl with capBytes := bytes, capBits := bits, capSamples := samples } }

/-- Four bits, and eight samples, in `small`. -/
def withBits : State := loadBits [true, false, true, true] small

theorem illegal_word : ∀ i, (0x120 : Word) ≠ encode i := by
  intro i
  cases i <;> decide

theorem witness_IllegalWordFaults :
    (∀ i, (0x120 : Word) ≠ encode i) ∧ small.status.err = false ∧ small.status.busy = false :=
  ⟨illegal_word, by decide, by decide⟩

theorem witness_StepRunsDecodedCommand :
    (decode 0x10 = .ok .bytes2Bits ∧ small.status.busy = false) ∧ small.host = [] ∧
      ({ small with status := { Status.clear with busy := true } }.status.busy = true ∧
        (HostAccess.writeReg 0 0x10).wf = true ∧ HostAccess.whileBusy (.writeReg 0 0x10) = false) :=
  ⟨⟨rfl, by decide⟩, rfl, by decide, by decide, by decide⟩

theorem witness_PendingFaultRefusesCommands :
    pending.status.err = true ∧ pending.status.busy = false ∧ (Instr.bytes2Bits ≠ .reset ∧ Instr.bytes2Bits ≠ .clrErr) ∧
      (∀ i, (0x120 : Word) ≠ encode i) ∧ (0x40 ≠ 0 ∧ 0x40 % 4 = 0) :=
  ⟨by decide, by decide, by decide, illegal_word, by decide⟩

/-- The first and the last register, an unassigned offset, one beyond the registers and two that are misaligned. -/
theorem witness_HostRegisterAccess :
    small.status.busy = false ∧ (0x10 % 4 = 0 ∧ 0x10 ≠ 0) ∧ (0x68 % 4 = 0 ∧ 0x68 ≠ 0) ∧
      0x5C ∈ [0x00, 0x38, 0x3C, 0x5C] ∧ 0x6C ≤ 0x6C ∧ (0x01 < 0x6C ∧ 0x01 % 4 ≠ 0) ∧ (0x6B < 0x6C ∧ 0x6B % 4 ≠ 0) := by
  decide

/-- Each of the three unassigned stretches of the bus at both ends. -/
theorem witness_HostBufferAccess :
    small.status.busy = false ∧ 0xFFFFF < 0x100000 ∧ 0x3FFFFF < 0x400000 ∧
      (0x6C % 4 = 0 ∧ 0x6C ≤ 0x6C ∧ 0x6C < 0x100000) ∧ (0xFFFFC % 4 = 0 ∧ 0xFFFFC < 0x100000) ∧
      (0x300000 % 4 = 0 ∧ 0x300000 ≤ 0x300000) ∧ (0xFFFFFC % 4 = 0 ∧ 0xFFFFFC < 0x1000000) ∧ 0x2000000 % 4 = 0 := by
  decide

theorem witness_NopOnlyCompletes :
    small.status.err = false ∧ { small with status := { small.status with err := true } }.status.err = true := by decide

theorem witness_BytesToBitsResult :
    (let s := tight 2 16 1 (loadBytes [0x53, 0x02] small);
      s.Ready ∧ s.Fits .byte ∧ 8 * s.byteLen.toNat ≤ s.impl.capBits) ∧
    (let s := tight 2 15 1 (loadBytes [0x53, 0x02] small);
      s.Ready ∧ s.Fits .byte ∧ s.impl.capBits < 8 * s.byteLen.toNat) := by
  decide

theorem witness_BitsToBytesTruncates :
    (let s := tight 1 15 1 (loadBits (bitsOfNat 15 0x2981) small);
      s.Ready ∧ s.Fits .bit ∧ s.bitLen.toNat / 8 ≤ s.impl.capBytes) ∧
    (let s := tight 1 16 1 (loadBits (bitsOfNat 16 0x5302) small);
      s.Ready ∧ s.Fits .bit ∧ s.impl.capBytes < s.bitLen.toNat / 8) := by
  decide

theorem witness_BitsToBytesStrict :
    (let s := tight 2 16 1 (loadBits (bitsOfNat 15 0x2981) small);
      s.Ready ∧ s.Fits .bit ∧ s.bitLen.toNat % 8 ≠ 0) ∧
    (let s := tight 2 16 1 (loadBits (bitsOfNat 16 0x5302) small);
      s.Ready ∧ s.Fits .bit ∧ s.bitLen.toNat % 8 = 0 ∧ s.bitLen.toNat / 8 ≤ s.impl.capBytes) ∧
    (let s := tight 1 16 1 (loadBits (bitsOfNat 16 0x5302) small);
      s.Ready ∧ s.Fits .bit ∧ s.bitLen.toNat % 8 = 0 ∧ s.impl.capBytes < s.bitLen.toNat / 8) := by
  decide

theorem witness_HammingEncodeResult :
    (let s := { withBits with cfg := 5 };
      s.Ready ∧ s.Fits .bit ∧ ¬ s.HamOk) ∧
    (withBits.Ready ∧ withBits.Fits .bit ∧ withBits.HamOk ∧ withBits.bitLen.toNat % withBits.hamDSize ≠ 0) ∧
    (let s := tight 1 6 1 { withBits with cfg := 4 };
      s.Ready ∧ s.Fits .bit ∧ s.HamOk ∧ s.bitLen.toNat % s.hamDSize = 0 ∧
        s.impl.capBits < s.bitLen.toNat / s.hamDSize * hamBLen s.hamDSize) ∧
    (let s := tight 1 7 1 { withBits with cfg := 4 };
      s.Ready ∧ s.Fits .bit ∧ s.HamOk ∧ s.bitLen.toNat % s.hamDSize = 0 ∧
        s.bitLen.toNat / s.hamDSize * hamBLen s.hamDSize ≤ s.impl.capBits) := by
  decide +kernel

theorem witness_HammingDecodeResult :
    (let s := { withBits with cfg := 0 };
      s.Ready ∧ s.Fits .bit ∧ ¬ s.HamOk) ∧
    (withBits.Ready ∧ withBits.Fits .bit ∧ withBits.HamOk ∧ withBits.bitLen.toNat % hamBLen withBits.hamDSize ≠ 0) ∧
    (let s := loadBits (bitsOfNat 12 0x9A3) small;
      s.Ready ∧ s.Fits .bit ∧ s.HamOk ∧ s.bitLen.toNat % hamBLen s.hamDSize = 0) := by
  decide +kernel

/-- R94: a block of each size, the second with the syndrome 15 (V16). -/
theorem witness_HammingDecodeResult_block :
    (bitsOfNat 7 0x25).length = 7 ∧ (bitsOfNat 12 0x927).length = 12 ∧ syndrome 8 (bitsOfNat 12 0x927) = 15 := by
  decide +kernel

theorem witness_HammingCorrectsOneError :
    (bitsOfNat 8 0x53).length % 8 = 0 ∧ (bitsOfNat 8 0x53).length = 8 ∧ 11 < hamBLen 8 ∧
      (bitsOfNat 4 0x5).length = 4 ∧ 6 < hamBLen 4 ∧ (bitsOfNat 12 0x9A3).length % hamBLen 8 = 0 := by
  decide +kernel

theorem witness_HammingTwoErrorsGiveWrongData :
    (bitsOfNat 8 0x53).length = 8 ∧ (11 < hamBLen 8 ∧ 10 < 11) ∧ (6 < hamBLen 4 ∧ 0 < 6) ∧
      bitsOfNat 8 0x53 ≠ bitsOfNat 8 0x02 := by
  decide +kernel

theorem witness_RsEncodeResult :
    (let s := { small with byteLen := 246 };
      s.Ready ∧ s.Fits .byte ∧ 245 < s.byteLen.toNat) ∧
    (let s := tight 254 1 1 { small with byteLen := 245 };
      s.Ready ∧ s.Fits .byte ∧ s.byteLen.toNat ≤ 245 ∧ s.impl.capBytes < s.byteLen.toNat + 10) ∧
    (let s := tight 255 1 1 { small with byteLen := 245 };
      s.Ready ∧ s.Fits .byte ∧ s.byteLen.toNat ≤ 245 ∧ s.byteLen.toNat + 10 ≤ s.impl.capBytes) := by
  decide

/-- The codeword of `TEST`, and it with four bytes changed (V23, V26). -/
def codeword : List Byte := [0x00, 0x04, 0x54, 0x45, 0x53, 0x54, 0x06, 0x9B, 0x99, 0x2E, 0x01, 0x02, 0x75, 0x4E]
def damaged : List Byte := [0x55, 0x04, 0xAB, 0x45, 0x53, 0x55, 0x06, 0x9B, 0x99, 0x2E, 0x01, 0x02, 0x75, 0xCE]

theorem witness_RsCorrectReturnsNearCodeword : rsCorrect damaged = some codeword ∧ IsCodeword codeword := by
  decide +kernel

theorem witness_RsCorrectIsBoundedDistance :
    (10 ≤ damaged.length ∧ damaged.length ≤ 255) ∧
      (codeword.length = damaged.length ∧ IsCodeword codeword ∧ distance codeword damaged ≤ 4) := by
  decide +kernel

/-- Too short, too long, uncorrectable (V28), a long prefix (V29), correctable (V26). -/
theorem witness_RsDecodeResult :
    (let s := { small with byteLen := 9 };
      s.Ready ∧ s.Fits .byte ∧ s.byteLen.toNat < 10) ∧
    (let s := { small with byteLen := 256 };
      s.Ready ∧ s.Fits .byte ∧ 255 < s.byteLen.toNat) ∧
    (let s := loadBytes [0x01, 0x05, 0x55, 0x44, 0x52, 0x54, 0x06, 0x9B, 0x99, 0x2E, 0x01, 0x02, 0x75, 0x4E] small;
      s.Ready ∧ s.Fits .byte ∧ 10 ≤ s.byteLen.toNat ∧ s.byteLen.toNat ≤ 255 ∧ rsCorrect s.bytes = none) ∧
    (let s := loadBytes [0x00, 0x09, 0x41, 0x3C, 0x74, 0xEA, 0x6D, 0x8E, 0xE7, 0x0B, 0xE5] small;
      s.Ready ∧ s.Fits .byte ∧ rsCorrect s.bytes = some s.bytes ∧ s.byteLen.toNat - 10 < 9) ∧
    (let s := loadBytes damaged small;
      s.Ready ∧ s.Fits .byte ∧ 10 ≤ s.byteLen.toNat ∧ s.byteLen.toNat ≤ 255 ∧ rsCorrect s.bytes = some codeword) := by
  decide +kernel

theorem witness_RsDecodeUndoesRsEncode :
    (let s := tight 255 1 1 { small with byteLen := 245 };
      s.Ready ∧ s.byteLen.toNat ≤ 245 ∧ s.byteLen.toNat + 10 ≤ s.impl.capBytes) ∧
    (small.Ready ∧ small.byteLen.toNat ≤ 245 ∧ small.byteLen.toNat + 10 ≤ small.impl.capBytes) := by
  decide

theorem witness_FrameMarkerBits :
    (let s := tight 1 24 1 small;
      s.Ready ∧ s.hamDSize = 8 ∧ 24 ≤ s.impl.capBits) ∧
    (let s := tight 1 28 1 { small with cfg := 4 };
      s.Ready ∧ s.hamDSize = 4 ∧ 28 ≤ s.impl.capBits) ∧
    (let s := tight 1 23 1 small;
      s.Ready ∧ s.hamDSize = 8 ∧ s.impl.capBits < 24) ∧
    (let s := { small with cfg := 0 };
      s.Ready ∧ ¬ s.HamOk) := by
  decide

theorem witness_FrameWrapResult :
    (let s := { withBits with cfg := 0 };
      s.Ready ∧ s.Fits .bit ∧ ¬ s.HamOk) ∧
    (let s := tight 1 51 1 withBits;
      s.Ready ∧ s.Fits .bit ∧ s.HamOk ∧ s.impl.capBits < s.bitLen.toNat + 2 * markerLen s.hamDSize) ∧
    (let s := tight 1 52 1 withBits;
      s.Ready ∧ s.Fits .bit ∧ s.HamOk ∧ s.bitLen.toNat + 2 * markerLen s.hamDSize ≤ s.impl.capBits) := by
  decide +kernel

/-- V35's damaged start marker. -/
theorem witness_DamagedMarkerStillMatches :
    (bitsOfNat 24 0xBA3C13).length = markerLen 8 ∧
      ∀ c < 16 / 8, bitDistance (slice (bitsOfNat 24 0xBA3C13) (c * hamBLen 8) ((c + 1) * hamBLen 8))
        (slice (codedMark 8 .start) (c * hamBLen 8) ((c + 1) * hamBLen 8)) ≤ 1 := by
  decide +kernel

theorem no_match_in_four_bits (k : Marker) : ∀ i, ¬ MatchesAt 8 withBits.bits k i := by
  rintro i ⟨h, -⟩
  have h1 : markerLen 8 = 24 := by decide +kernel
  have h2 : withBits.bits.length = 4 := by decide +kernel
  omega

/-- A start marker alone, and an end marker alone. -/
def startAlone : State := loadBits (bitsOfNat 24 0x9A3C12) small
def finishAlone : State := loadBits (bitsOfNat 24 0xD03C85) small

theorem witness_StripLeadingResult :
    (let s := { withBits with cfg := 0 };
      s.Ready ∧ s.Fits .bit ∧ ¬ s.HamOk) ∧
    (withBits.Ready ∧ withBits.Fits .bit ∧ withBits.HamOk ∧ withBits.hamDSize = 8 ∧
      ∀ i, ¬ MatchesAt 8 withBits.bits .start i) ∧
    (startAlone.Ready ∧ startAlone.Fits .bit ∧ startAlone.HamOk ∧
      MatchesAt startAlone.hamDSize startAlone.bits .start 0 ∧
      ∀ j < 0, ¬ MatchesAt startAlone.hamDSize startAlone.bits .start j) :=
  ⟨by decide, ⟨by decide, by decide, by decide, by decide, no_match_in_four_bits .start⟩, by decide +kernel⟩

theorem no_later_match : ∀ j, 0 < j → ¬ MatchesAt 8 (bitsOfNat 24 0xD03C85) .finish j := by
  rintro j hj ⟨h, -⟩
  have h1 : markerLen 8 = 24 := by decide +kernel
  have h2 : (bitsOfNat 24 0xD03C85).length = 24 := by decide +kernel
  omega

theorem witness_StripTrailingResult :
    (let s := { withBits with cfg := 0 };
      s.Ready ∧ s.Fits .bit ∧ ¬ s.HamOk) ∧
    (withBits.Ready ∧ withBits.Fits .bit ∧ withBits.HamOk ∧ withBits.hamDSize = 8 ∧
      ∀ i, ¬ MatchesAt 8 withBits.bits .finish i) ∧
    (finishAlone.Ready ∧ finishAlone.Fits .bit ∧ finishAlone.HamOk ∧ finishAlone.hamDSize = 8 ∧
      finishAlone.bits = bitsOfNat 24 0xD03C85 ∧ MatchesAt 8 (bitsOfNat 24 0xD03C85) .finish 0 ∧
      ∀ j, 0 < j → ¬ MatchesAt 8 (bitsOfNat 24 0xD03C85) .finish j) :=
  ⟨by decide, ⟨by decide, by decide, by decide, by decide, no_match_in_four_bits .finish⟩,
    by decide, by decide, by decide, by decide, by decide +kernel, by decide +kernel, no_later_match⟩

theorem witness_UnwrapResult :
    (let s := { withBits with cfg := 0 };
      s.Ready ∧ s.Fits .bit ∧ ¬ s.HamOk) ∧
    (withBits.Ready ∧ withBits.Fits .bit ∧ withBits.HamOk ∧ withBits.hamDSize = 8 ∧
      ∀ i, ¬ MatchesAt 8 withBits.bits .start i) ∧
    (startAlone.Ready ∧ startAlone.Fits .bit ∧ startAlone.HamOk ∧
      MatchesAt startAlone.hamDSize startAlone.bits .start 0 ∧
      ∀ k, ¬ MatchesAt 8 (startAlone.bits.drop (0 + markerLen 8)) .finish k) ∧
    (let s := loadBits (bitsOfNat 48 0x9A3C12D03C85) small;
      s.Ready ∧ s.Fits .bit ∧ s.HamOk ∧ s.hamDSize = 8 ∧ MatchesAt 8 s.bits .start 0 ∧
        s.bits.drop (0 + markerLen 8) = bitsOfNat 24 0xD03C85 ∧ MatchesAt 8 (bitsOfNat 24 0xD03C85) .finish 0 ∧
        ∀ j, 0 < j → ¬ MatchesAt 8 (bitsOfNat 24 0xD03C85) .finish j) := by
  refine ⟨by decide, ⟨by decide, by decide, by decide, by decide, no_match_in_four_bits .start⟩,
    ⟨by decide, by decide, by decide, by decide +kernel, ?_⟩,
    by decide, by decide, by decide, by decide, by decide +kernel, by decide +kernel, by decide +kernel, no_later_match⟩
  rintro k ⟨h, -⟩
  have h1 : markerLen 8 = 24 := by decide +kernel
  have h2 : (startAlone.bits.drop (0 + markerLen 8)).length = 0 := by decide +kernel
  omega

/-- Four bits, sps = 4, pad 1: eighteen samples in FSK, ten in QPSK. -/
theorem witness_FskModulateResult :
    (let s := tight 1 4 18 { withBits with pad := 1 };
      s.ModReady .fsk ∧ 2 * s.pad.toNat + s.bitLen.toNat * s.sps ≤ s.impl.capSamples) ∧
    (let s := tight 1 4 17 { withBits with pad := 1 };
      s.ModReady .fsk ∧ s.impl.capSamples < 2 * s.pad.toNat + s.bitLen.toNat * s.sps) := by
  simp only [State.ModReady, State.SchemeOk]
  decide

theorem witness_QpskModulateResult :
    (let s := tight 1 4 10 { withBits with pad := 1 };
      s.ModReady .qpsk ∧ s.bitLen.toNat % 2 = 0 ∧
        2 * s.pad.toNat + s.bitLen.toNat / 2 * s.sps ≤ s.impl.capSamples) ∧
    (let s := tight 1 4 9 { withBits with pad := 1 };
      s.ModReady .qpsk ∧ s.bitLen.toNat % 2 = 0 ∧
        s.impl.capSamples < 2 * s.pad.toNat + s.bitLen.toNat / 2 * s.sps) ∧
    (let s := loadBits [true] small;
      s.ModReady .qpsk ∧ s.bitLen.toNat % 2 ≠ 0) := by
  simp only [State.ModReady, State.SchemeOk]
  decide

theorem witness_ToneBlockModulateResult : withBits.ModReady .tb := by
  simp only [State.ModReady, State.SchemeOk]
  decide

/-- V42's eight samples: two windows. -/
theorem witness_FskDemodulateResult :
    (let s := tight 1 2 8 v42;
      s.DemReady .fsk ∧ (s.sampLen.toNat - s.offset.toNat) / s.sps ≤ s.impl.capBits) ∧
    (let s := tight 1 1 8 v42;
      s.DemReady .fsk ∧ s.offset.toNat ≤ s.sampLen.toNat ∧
        s.impl.capBits < (s.sampLen.toNat - s.offset.toNat) / s.sps) := by
  simp only [State.DemReady, State.SchemeOk]
  decide

theorem witness_QpskDemodulateResult :
    (let s := tight 1 4 8 v42;
      s.DemReady .qpsk ∧ 2 * ((s.sampLen.toNat - s.offset.toNat) / s.sps) ≤ s.impl.capBits) ∧
    (let s := tight 1 3 8 v42;
      s.DemReady .qpsk ∧ s.offset.toNat ≤ s.sampLen.toNat ∧
        s.impl.capBits < 2 * ((s.sampLen.toNat - s.offset.toNat) / s.sps)) := by
  simp only [State.DemReady, State.SchemeOk]
  decide

theorem witness_ToneBlockDemodulateResult : v42.DemReady .tb := by
  simp only [State.DemReady, State.SchemeOk]
  decide

theorem witness_DecodeIsDemodulateThenUnwrap :
    v42.HamOk ∧ v42.DemReady .fsk ∧ v42.DemReady .qpsk ∧ v42.DemReady .tb := by
  simp only [State.DemReady, State.SchemeOk]
  decide

/-- A frequency register that is not finite; the step before it passes. -/
theorem witness_SchemeCheckOrder :
    let s := loadBits [true] { small with fskF0 := 0x7FC00000 };
    Instr.scheme .fskMod = some (.fsk, .modulate) ∧ s.Ready ∧ s.Fits .bit ∧
      ∃ before after, s.schemeTable .fsk .modulate (encode .fskMod) = before ++ (false, .config, 0x18) :: after ∧
        ∀ c ∈ before, c.1 = true :=
  ⟨rfl, by decide, by decide,
    [(true, .config, 0x40), (true, .config, 0x14)], [(true, .config, 0x1C), (true, .config, 0x4C)], by decide +kernel⟩

theorem witness_UnusableDataFaults :
    (let s := loadSamples [one, 0x7FC00000] small;
      Instr.scheme .fskDem = some (.fsk, .demodulate) ∧ s.Ready ∧ s.SchemeConfigOk .fsk .demodulate ∧
        s.Fits .samp ∧ 1 < s.sampLen.toNat ∧ F32.isSample (s.sampleAt 1) = false ∧
        (∀ j < 1, F32.isSample (s.sampleAt j) = true) ∧ s.LevelOk ∧ 0 < s.rate.toNat ∧ F32.isNonneg s.freq = true) ∧
    (small.Ready ∧ small.SchemeConfigOk .fsk .framed ∧ small.sampLen.toNat = 0) ∧
    (Instr.scheme .tbMod = some (.tb, .modulate) ∧ small.SchemeConfigOk .tb .modulate ∧ small.bitLen.toNat = 0) := by
  simp only [State.SchemeConfigOk, State.SchemeOk, Instr.scheme]
  decide

theorem witness_InputBeyondCapacityFaults :
    let s := tight 3 3 3 { small with byteLen := 4, bitLen := 4, sampLen := 4 };
    s.status.err = false ∧
      (Instr.input .rsDec = some .byte ∧ s.capacity .byte < s.lengthOf .byte) ∧
      (Instr.input .hamEnc = some .bit ∧ s.capacity .bit < s.lengthOf .bit) ∧
      (Instr.input .goertzel = some .samp ∧ s.capacity .samp < s.lengthOf .samp) := by
  decide

theorem witness_GoertzelResult :
    ({ v42 with rate := 0 }.Ready ∧ { v42 with rate := 0 }.Fits .samp ∧ { v42 with rate := 0 }.rate.toNat = 0) ∧
    (let s := { v42 with freq := 0xBF800000 };
      s.Ready ∧ s.Fits .samp ∧ 0 < s.rate.toNat ∧ F32.isNonneg s.freq = false) ∧
    (small.Ready ∧ small.Fits .samp ∧ 0 < small.rate.toNat ∧ F32.isNonneg small.freq = true ∧
      small.sampLen.toNat = 0) ∧
    (let s := { v42 with freq := 0x80000000 };
      s.Ready ∧ s.Fits .samp ∧ 0 < s.rate.toNat ∧ F32.isNonneg s.freq = true ∧ 0 < s.sampLen.toNat ∧ s.SamplesOk) := by
  decide

theorem witness_GoertzelIsDftModulus : ([0] : List ℝ) ≠ [] ∧ (∀ x ∈ ([0] : List ℝ), x = 0) ∧ (0 : ℝ) ≤ 0 := by simp

/-- One cycle of a sine in three samples, measured on its bin. -/
theorem witness_ExactBinResponse :
    3 ≤ 3 ∧ 0 < 1 ∧ 2 * 1 < 3 ∧ (0 : ℝ) ≤ 1 ∧ 1 < 3 ∧ roundReal .halfEven ((3 : ℕ) * (1 : ℝ) / (3 : ℕ)) = 1 := by
  refine ⟨by norm_num, by norm_num, by norm_num, by norm_num, by norm_num, ?_⟩
  have e : ((3 : ℕ) : ℝ) * 1 / ((3 : ℕ) : ℝ) = 1 := by norm_num
  have f : ⌊(1 : ℝ)⌋₊ = 1 := Nat.floor_one
  rw [e, roundReal, f]
  norm_num

theorem witness_ReferenceArithmeticIsLawful : ∃ toF32 : ℝ → F32, StoreLaws toF32 :=
  Numerics.ratStore_exists.imp fun _ h => h.1

theorem witness_EqualPowersGiveZeroBits :
    let s := { v42 with fskF1 := 0x3F800000 };
    s.DemReady .fsk ∧ s.fskF0 = s.fskF1 := by
  simp only [State.DemReady, State.SchemeOk]
  decide

theorem witness_EqualPowersGiveZeroBits_fits : v42.sampLen.toNat ≤ v42.impl.capBits := by decide +kernel

theorem witness_EqualPowersGiveZeroBits_silence :
    ∀ x ∈ ([F32.zero, F32.negate F32.zero] : List F32), F32.units x = 0 := by
  intro x hx
  rcases List.mem_cons.mp hx with rfl | hx
  · rfl
  · rcases List.mem_singleton.mp hx with rfl
    rfl

theorem witness_SyncSearchResult :
    v42.HamOk ∧ v42.DemReady .fsk ∧ v42.DemReady .qpsk ∧ v42.syncX = false ∧ { v42 with cfg := 0x108 }.syncX = true := by
  simp only [State.DemReady, State.SchemeOk]
  decide

/-- Decodes valid at the offsets 0 and 3 of four. -/
def twoRuns (o : Nat) : Bits × Bool := if o = 0 ∨ o = 3 then ([true], true) else ([], false)

theorem witness_SyncSearchResult_clauses :
    ((0 : Nat) ≤ 0 ∧ 0 < 4 ∧ (∀ o < 0, (twoRuns o).1 = []) ∧ (twoRuns 0).1 ≠ [] ∧ (twoRuns (0 + 1)).1 = []) ∧
      (List.range 4).filter (fun o => !(twoRuns o).1.isEmpty) = [0, 3] ∧ ([0, 3] : List Nat) ≠ [] := by
  decide

theorem witness_ToneBlockSyncResult :
    v42.HamOk ∧ v42.DemReady .tb ∧ v42.syncX = false ∧ { v42 with cfg := 0x108 }.syncX = true ∧ v42.sps = 4 := by
  simp only [State.DemReady, State.SchemeOk]
  decide

/-- Answers at four offsets: a frame's payload at 1, none found at 0 and 2, no bit sequence at 3. -/
def badAnswer (o : Nat) : Option Bits := if o = 3 then none else if o = 1 then some [true] else some []

/-- The scan of `SYNCX = 0` ends at 2 and does not ask for 3; a scan that asks for all meets 3 first. -/
theorem witness_ToneBlockSyncResult_clauses :
    ((1 : Nat) ≤ 1 ∧ 1 + 1 < 4 ∧ (∀ o ≤ 1 + 1, (badAnswer o).isSome = true) ∧ (∀ o < 1, (badAnswer o).getD [] = []) ∧
      (badAnswer 1).getD [] ≠ [] ∧ (badAnswer (1 + 1)).getD [] = []) ∧
    (3 < 4 ∧ badAnswer 3 = none ∧ ∀ j < 3, (badAnswer j).isSome = true) := by
  decide

theorem witness_NoiseAddResult :
    ({ v42 with level := 0x7F800000 }.Ready ∧ { v42 with level := 0x7F800000 }.Fits .samp ∧
      ¬ { v42 with level := 0x7F800000 }.LevelOk) ∧
    (let s := { v42 with level := half };
      s.Ready ∧ s.Fits .samp ∧ s.LevelOk ∧ s.SamplesOk) := by
  decide

theorem witness_NoisySampleIsClampedSum :
    F32.isNonneg 0x80000000 = true ∧ F32.isNonneg half = true ∧ F32.isFinite half = true ∧ F32.isSample half = true := by
  decide

/-- A draw in the interval. -/
theorem witness_NoisySampleIsClampedSum_draw (N : Numerics) :
    ∃ d : N.Draw, -((F32.rat half : ℚ) : ℝ) ≤ N.drawReal d ∧ N.drawReal d ≤ ((F32.rat half : ℚ) : ℝ) := by
  obtain ⟨store, -, -, hX⟩ := N.lawful
  have h : F32.rat half = 1 / 2 := by decide +kernel
  refine ⟨N.reals.val half, ?_⟩
  rw [hX.val_real half (by decide), h]
  norm_num

theorem witness_ProducedSamplesAreValid :
    ∃ t, Instr.output .noiseAdd = some .samp ∧ v42.Ready ∧ exec .noiseAdd v42 = .next t ∧ t.status.err = false ∧
      0 < t.sampLen.toNat :=
  ⟨after (exec .noiseAdd v42), rfl, by decide, rfl, by decide +kernel⟩

theorem witness_StepKeepsStateInvariant :
    State.reset.Inv ∧ step State.reset = .next State.reset ∧
      (State.reset.withFetchWord 32 0x10).Inv ∧
      ∃ t, step (State.reset.withFetchWord 32 0x10) = .next t :=
  ⟨by decide, rfl, by decide, _, rfl⟩

theorem witness_ResetStateMeetsInvariant :
    Params.ok Config.initialParams = true ∧
      Params.ok { capBytes := 1, capBits := 1, capSamples := 1, tbPresent := false, roundTie := .halfAway } = true := by
  decide

theorem witness_EveryCommandEndsPrecisely : small.status.err = false ∧ Instr.hamEnc ≠ .reset := by decide

theorem witness_CommandsRaiseOnlyTheirFaults :
    ∃ t, State.reset.status.err = false ∧ exec .hamEnc State.reset = .next t ∧ t.status.err = true :=
  ⟨after (exec .hamEnc State.reset), by decide, rfl, by decide +kernel⟩

theorem witness_CommandsWriteOnlyTheirOutputs :
    ∃ t, Instr.bytes2Bits ≠ .reset ∧ exec .bytes2Bits small = .next t ∧ Instr.bytes2Bits ≠ .goertzel ∧
      Instr.bytes2Bits ∉ [Instr.fskSync, .qpskSync, .tbSync] ∧ Instr.output .bytes2Bits ≠ some .byte ∧
      Instr.output .rsEnc ≠ some .bit ∧ Instr.output .bytes2Bits ≠ some .samp :=
  ⟨after (exec .bytes2Bits small), by decide, rfl, by decide⟩

theorem witness_UnreadStateDoesNotMatter :
    ∃ t, Instr.hamEnc ≠ .reset ∧ exec .hamEnc small = .next t ∧
      Instr.hamEnc ∉ [Instr.fskDem, .qpskDem, .tbDem, .fskDecode, .qpskDecode, .tbDecode] ∧ Instr.hamEnc ≠ .goertzel ∧
      Instr.hamEnc ∉ [Instr.fskMod, .qpskMod, .tbMod, .noiseAdd] ∧ Instr.scheme .hamEnc = none ∧
      Instr.hamEnc ∉ [Instr.fskMod, .fskDem, .fskDecode, .fskSync] ∧
      Instr.hamEnc ∉ [Instr.qpskMod, .qpskDem, .qpskDecode, .qpskSync] ∧
      ((0x108 : Word) &&& Instr.cfgRead .hamEnc = small.cfg &&& Instr.cfgRead .hamEnc) ∧
      Instr.input .hamEnc ≠ some .byte ∧ Instr.output .hamEnc ≠ some .byte ∧
      Instr.input .hamEnc ≠ some .samp ∧ Instr.output .hamEnc ≠ some .samp :=
  ⟨after (exec .hamEnc small), by decide, rfl, by decide⟩

/-- A command that does not read the buffer it writes, for each buffer; one that touches no bit; noise at level 0. -/
theorem witness_UnreadStateDoesNotMatter_outputs :
    (Instr.input .bits2BytesT ≠ some .byte ∧ Instr.output .bits2BytesT = some .byte) ∧
    (Instr.input .bytes2Bits ≠ some .bit ∧ Instr.output .bytes2Bits = some .bit) ∧
    (Instr.input .fskMod ≠ some .samp ∧ Instr.output .fskMod = some .samp) ∧
    (Instr.input .rsEnc ≠ some .bit ∧ Instr.output .rsEnc ≠ some .bit) ∧
    (after (exec .bytes2Bits small)).status.err = false ∧ (after (exec .bits2BytesT small)).status.err = false ∧
    Status.clear.err = small.status.err ∧ F32.units small.level = 0 := by
  decide +kernel

end Sys2Proof.Tests
end

section
/-!
SUPPORT. A command in two parts: it reads the state and decides how it ends (`State.ending`), and that ending is then
put on the state (`Ending.on`). `exec_eq_ending` ties the two to `exec`. What a command leaves unchanged, what it keeps
and what it does not read are then facts about the few kinds of ending, and not about thirty pseudocodes.
-/

namespace Sys2Proof.Machine

variable {R D : Type}

/-! ## What a command writes -/

/-- What a command completes with: for each part of the state that a command can write, what it writes there, if it
does; how many draws it takes; and its result flags. -/
structure Plan where
  bytes : Option (List Byte) := none
  bits : Option Bits := none
  samples : Option (List F32) := none
  power : Option F32 := none
  /-- `SYNCOFF` and `SYNCCNT`. -/
  sync : Option (Word × Word) := none
  taken : Nat := 0
  flags : Flags := {}

/-- A buffer's length register after a write, if there is one. -/
def lengthAfter {α : Type} (n : Word) : Option (List α) → Word
  | none => n
  | some v => BitVec.ofNat 32 v.length

/-- A buffer after a write by a command that found the length `n`, if there is one. -/
def Buf.after {α : Type} (b : Buf α) (n : Word) : Option (List α) → Buf α
  | none => b
  | some v => b.put n.toNat v

/-- A buffer's epoch after such a write, if there is one. -/
def epochWith {α : Type} (epoch : Nat) (n : Word) : Option (List α) → Nat
  | none => epoch
  | some v => epochAfter epoch n.toNat v.length

/-- The writes of a plan, `STATUS` aside. Every field depends on its own old value, and a buffer on its length register,
so this commutes with the update of any other field by definition. -/
def Plan.write (p : Plan) (s : State) : State :=
  { s with
    power := p.power.getD s.power
    syncOff := (p.sync.map Prod.fst).getD s.syncOff
    syncCnt := (p.sync.map Prod.snd).getD s.syncCnt
    byteLen := lengthAfter s.byteLen p.bytes
    byteBuf := s.byteBuf.after s.byteLen p.bytes
    byteEpoch := epochWith s.byteEpoch s.byteLen p.bytes
    bitLen := lengthAfter s.bitLen p.bits
    bitBuf := s.bitBuf.after s.bitLen p.bits
    bitEpoch := epochWith s.bitEpoch s.bitLen p.bits
    sampLen := lengthAfter s.sampLen p.samples
    sampBuf := s.sampBuf.after s.sampLen p.samples
    sampEpoch := epochWith s.sampEpoch s.sampLen p.samples
    draws := s.draws + p.taken }

/-- The writes of a plan, and completion. -/
def Plan.on (p : Plan) (s : State) : State := (p.write s).complete p.flags

/-! ## What a command's pseudocode decides, read off the state

Each plan is its pseudocode with the decision to write in the place of the write (`planBits` for `outBits`, and so on);
that it is, the lemmas of the next part say, body by body. -/

/-- `Out(BYTEBUF, v)`, decided (20_memory.md R44). -/
def State.planBytes (s : State) (v : List Byte) (f : Flags) : Except Raise Plan := do
  s.checkCapacity .byte v.length
  .ok { bytes := v, flags := f }

/-- `Out(BITBUF, v)`, decided. -/
def State.planBits (s : State) (v : Bits) (f : Flags) : Except Raise Plan := do
  s.checkCapacity .bit v.length
  .ok { bits := v, flags := f }

/-- `Out(SAMPBUF, finish(w))`, decided (44_modulators.md R138). -/
def State.planWave (s : State) (E : Env R D) (n : Nat) (w : List F32) : Except Raise Plan := do
  s.checkCapacity .samp (2 * s.pad.toNat + n)
  .ok {
    samples := s.noised E (s.padded w)
    taken := drawsTaken s.level (2 * s.pad.toNat + n)
    flags := { empty := 2 * s.pad.toNat + n == 0 } }

/-- The writes of `SYNC`, decided (46_offset_sync.md R160). -/
def State.planSync (s : State) (p : Bits × Bool) (m n : Nat) : Except Raise Plan := do
  s.checkCapacity .bit p.1.length
  .ok {
    bits := p.1
    sync := (BitVec.ofNat 32 m, BitVec.ofNat 32 n)
    flags := Flags.search p.1 p.2 }

/-- R104. -/
def rsEncPlan (s : State) : Except Raise Plan := do
  need (decide (s.bytes.length ≤ Config.rsMaxMsg)) .length s.bytes.length
  s.planBytes (rsEncode s.bytes) {}

/-- R106. -/
def rsDecPlan (s : State) : Except Raise Plan :=
  s.planBytes (rsDecode s.bytes).1 { empty := (rsDecode s.bytes).1.isEmpty, rsStat := (rsDecode s.bytes).2 }

/-- R80. -/
def bytes2BitsPlan (s : State) : Except Raise Plan := s.planBits (bytesToBits s.bytes) (Flags.written s.bytes)

/-- R81. -/
def bits2BytesPlan (s : State) : Except Raise Plan :=
  s.planBytes (bitsToBytes s.bits) (Flags.written (bitsToBytes s.bits))

/-- R82. -/
def bits2BytesStrictPlan (s : State) : Except Raise Plan := do
  need (decide (s.bits.length % 8 = 0)) .length s.bits.length
  bits2BytesPlan s

/-- R93. -/
def hamEncPlan (s : State) : Except Raise Plan := do
  firstFailure [s.checkHam, need (decide (s.bits.length % s.hamDSize = 0)) .length s.bits.length]
  s.planBits (hamEnc s.hamDSize s.bits) (Flags.written s.bits)

/-- R95. -/
def hamDecPlan (s : State) : Except Raise Plan := do
  s.checkHam
  match hamDec s.hamDSize s.bits with
  | none => s.planBits [] { empty := true, decFail := true }
  | some r => s.planBits r (Flags.written r)

/-- R116, R117. -/
def framePlan (f : Nat → Bits → Bits) (s : State) : Except Raise Plan := do
  s.checkHam
  s.planBits (f s.hamDSize s.bits) {}

/-- R119 to R121. -/
def searchPlan (f : Nat → Bits → Bits × Bool) (s : State) : Except Raise Plan := do
  s.checkHam
  s.planBits (f s.hamDSize s.bits).1 (Flags.search (f s.hamDSize s.bits).1 (f s.hamDSize s.bits).2)

/-- R132, R136, R141. -/
def modPlan (E : Env R D) (sch : Scheme) (w : Word) (s : State) : Except Raise Plan := do
  s.checkScheme sch .modulate w
  need (!s.bits.isEmpty) .emptyInput 0x64
  match sch with
  | .fsk => s.planWave E (s.bits.length * s.sps) (fskWave s E.arith s.bits)
  | .qpsk =>
    need (decide (s.bits.length % 2 = 0)) .length s.bits.length
    s.planWave E (s.bits.length / 2 * s.sps) (qpskWave s E.arith s.bits)
  | .tb =>
    let l ← validWave w (E.tbMod s.bits s.rate.toNat s.symRate.toNat)
    s.planWave E l.length l

/-- R134, R137, R142. -/
def demPlan (E : Env R D) (sch : Scheme) (w : Word) (s : State) : Except Raise Plan := do
  s.checkScheme sch .demodulate w
  let wv ← s.waveform
  let b ← demodulate E s sch w wv s.offset.toNat
  s.planBits b (Flags.written b)

/-- R139. -/
def decodePlan (E : Env R D) (sch : Scheme) (w : Word) (s : State) : Except Raise Plan := do
  s.checkScheme sch .framed w
  let wv ← s.waveform
  let p ← decodeAt E s sch w wv s.offset.toNat
  s.planBits p.1 (Flags.search p.1 p.2)

/-- R155. -/
def goertzelPlan (E : Env R D) (s : State) : Except Raise Plan := do
  firstFailure [s.checkRate, s.checkFreq]
  let w ← s.waveform
  .ok { power := E.arith.toF32 (detect E.arith s.impl.roundTie w (E.arith.val s.freq) s.rate.toNat) }

/-- R171. -/
def noiseAddPlan (E : Env R D) (s : State) : Except Raise Plan := do
  s.checkLevel
  let w ← s.checkedSamples
  .ok { samples := s.noised E w, taken := drawsTaken s.level w.length, flags := Flags.written w }

/-- R160. -/
def syncPlan (E : Env R D) (sch : Scheme) (w : Word) (s : State) : Except Raise Plan := do
  s.checkScheme sch .framed w
  let wv ← s.waveform
  let valid ← scanOffsets (decodeAt E s sch w wv) s.syncX (List.range s.sps) []
  match valid with
  | [] => s.planSync ([], false) 0 0
  | v :: rest => do
    let p ← decodeAt E s sch w wv (meanOffset (v :: rest))
    s.planSync p (meanOffset (v :: rest)) (v :: rest).length

/-- What each command decides once its input fits; `RESET` and `CLRERR` are not decided here. -/
def Instr.plan (E : Env R D) (s : State) : Instr → Except Raise Plan
  | .nop | .reset | .clrErr => .ok {}
  | .bytes2Bits => bytes2BitsPlan s
  | .bits2BytesT => bits2BytesPlan s
  | .bits2BytesS => bits2BytesStrictPlan s
  | .hamEnc => hamEncPlan s
  | .hamDec => hamDecPlan s
  | .rsEnc => rsEncPlan s
  | .rsDec => rsDecPlan s
  | .frmMarkS => framePlan (fun d _ => codedMark d .start) s
  | .frmMarkE => framePlan (fun d _ => codedMark d .finish) s
  | .frmWrap => framePlan wrapFrame s
  | .frmStripL => searchPlan stripLeading s
  | .frmStripT => searchPlan stripTrailing s
  | .frmUnwrap => searchPlan unwrapFrame s
  | .fskMod => modPlan E .fsk (encode .fskMod) s
  | .qpskMod => modPlan E .qpsk (encode .qpskMod) s
  | .tbMod => modPlan E .tb (encode .tbMod) s
  | .fskDem => demPlan E .fsk (encode .fskDem) s
  | .qpskDem => demPlan E .qpsk (encode .qpskDem) s
  | .tbDem => demPlan E .tb (encode .tbDem) s
  | .fskDecode => decodePlan E .fsk (encode .fskDecode) s
  | .qpskDecode => decodePlan E .qpsk (encode .qpskDecode) s
  | .tbDecode => decodePlan E .tb (encode .tbDecode) s
  | .goertzel => goertzelPlan E s
  | .fskSync => syncPlan E .fsk (encode .fskSync) s
  | .qpskSync => syncPlan E .qpsk (encode .qpskSync) s
  | .tbSync => syncPlan E .tb (encode .tbSync) s
  | .noiseAdd => noiseAddPlan E s

/-! ## Each pseudocode is its plan, put on the state -/

theorem outBytes_eq_plan (s : State) (v : List Byte) (f : Flags) :
    s.outBytes v f = (s.planBytes v f).map (·.on s) := by
  unfold State.outBytes State.planBytes
  cases s.checkCapacity .byte v.length <;> rfl

theorem outBits_eq_plan (s : State) (v : Bits) (f : Flags) : s.outBits v f = (s.planBits v f).map (·.on s) := by
  unfold State.outBits State.planBits
  cases s.checkCapacity .bit v.length <;> rfl

theorem outWave_eq_plan (s : State) (E : Env R D) (n : Nat) (w : List F32) :
    s.outWave E n w = (s.planWave E n w).map (·.on s) := by
  unfold State.outWave State.planWave
  cases s.checkCapacity .samp (2 * s.pad.toNat + n) <;> rfl

theorem outSync_eq_plan (s : State) (p : Bits × Bool) (m n : Nat) :
    s.outSync p m n = (s.planSync p m n).map (·.on s) := by
  unfold State.outSync State.outBits State.planSync
  show (match s.checkCapacity .bit p.1.length with | .error r => _ | .ok _ => _) = _
  cases s.checkCapacity .bit p.1.length <;> rfl

@[simp] theorem ok_bind {α β : Type} (a : α) (f : α → Except Raise β) : (Except.ok a >>= f) = f a := rfl

@[simp] theorem error_bind {α β : Type} (r : Raise) (f : α → Except Raise β) : (Except.error r >>= f) = .error r := rfl

theorem rsEncBody_eq_plan (s : State) : rsEncBody s = (rsEncPlan s).map (·.on s) := by
  unfold rsEncBody rsEncPlan
  rcases need (decide (s.bytes.length ≤ Config.rsMaxMsg)) .length s.bytes.length with r | _
  · rfl
  · exact outBytes_eq_plan s _ _

theorem rsDecBody_eq_plan (s : State) : rsDecBody s = (rsDecPlan s).map (·.on s) := outBytes_eq_plan s _ _

theorem bytes2BitsBody_eq_plan (s : State) : bytes2BitsBody s = (bytes2BitsPlan s).map (·.on s) := outBits_eq_plan s _ _

theorem bits2BytesBody_eq_plan (s : State) : bits2BytesBody s = (bits2BytesPlan s).map (·.on s) :=
  outBytes_eq_plan s _ _

theorem bits2BytesStrictBody_eq_plan (s : State) :
    bits2BytesStrictBody s = (bits2BytesStrictPlan s).map (·.on s) := by
  unfold bits2BytesStrictBody bits2BytesStrictPlan
  rcases need (decide (s.bits.length % 8 = 0)) .length s.bits.length with r | _
  · rfl
  · exact bits2BytesBody_eq_plan s

theorem hamEncBody_eq_plan (s : State) : hamEncBody s = (hamEncPlan s).map (·.on s) := by
  unfold hamEncBody hamEncPlan
  rcases firstFailure [s.checkHam, need (decide (s.bits.length % s.hamDSize = 0)) .length s.bits.length] with r | _
  · rfl
  · exact outBits_eq_plan s _ _

theorem hamDecBody_eq_plan (s : State) : hamDecBody s = (hamDecPlan s).map (·.on s) := by
  unfold hamDecBody hamDecPlan
  rcases s.checkHam with r | _
  · rfl
  · cases hamDec s.hamDSize s.bits <;> exact outBits_eq_plan s _ _

theorem frameBody_eq_plan (f : Nat → Bits → Bits) (s : State) : frameBody f s = (framePlan f s).map (·.on s) := by
  unfold frameBody framePlan
  rcases s.checkHam with r | _
  · rfl
  · exact outBits_eq_plan s _ _

theorem searchBody_eq_plan (f : Nat → Bits → Bits × Bool) (s : State) :
    searchBody f s = (searchPlan f s).map (·.on s) := by
  unfold searchBody searchPlan
  rcases s.checkHam with r | _
  · rfl
  · exact outBits_eq_plan s _ _

theorem modBody_eq_plan (E : Env R D) (sch : Scheme) (w : Word) (s : State) :
    modBody E sch w s = (modPlan E sch w s).map (·.on s) := by
  unfold modBody modPlan
  rcases s.checkScheme sch .modulate w with r | _
  · rfl
  simp only [ok_bind]
  rcases need (!s.bits.isEmpty) .emptyInput 0x64 with r | _
  · rfl
  cases sch with
  | fsk => exact outWave_eq_plan s E _ _
  | qpsk =>
    simp only [ok_bind]
    rcases need (decide (s.bits.length % 2 = 0)) .length s.bits.length with r | _
    · rfl
    · exact outWave_eq_plan s E _ _
  | tb =>
    simp only [ok_bind]
    rcases validWave w (E.tbMod s.bits s.rate.toNat s.symRate.toNat) with r | l
    · rfl
    · exact outWave_eq_plan s E _ _

theorem demBody_eq_plan (E : Env R D) (sch : Scheme) (w : Word) (s : State) :
    demBody E sch w s = (demPlan E sch w s).map (·.on s) := by
  unfold demBody demPlan
  rcases s.checkScheme sch .demodulate w with r | _
  · rfl
  rcases s.waveform with r | wv
  · rfl
  simp only [ok_bind]
  rcases demodulate E s sch w wv s.offset.toNat with r | b
  · rfl
  · exact outBits_eq_plan s _ _

theorem decodeBody_eq_plan (E : Env R D) (sch : Scheme) (w : Word) (s : State) :
    decodeBody E sch w s = (decodePlan E sch w s).map (·.on s) := by
  unfold decodeBody decodePlan
  rcases s.checkScheme sch .framed w with r | _
  · rfl
  rcases s.waveform with r | wv
  · rfl
  simp only [ok_bind]
  rcases decodeAt E s sch w wv s.offset.toNat with r | p
  · rfl
  · exact outBits_eq_plan s _ _

theorem goertzelBody_eq_plan (E : Env R D) (s : State) : goertzelBody E s = (goertzelPlan E s).map (·.on s) := by
  unfold goertzelBody goertzelPlan
  rcases firstFailure [s.checkRate, s.checkFreq] with r | _
  · rfl
  · cases s.waveform <;> rfl

theorem noiseAddBody_eq_plan (E : Env R D) (s : State) : noiseAddBody E s = (noiseAddPlan E s).map (·.on s) := by
  unfold noiseAddBody noiseAddPlan
  rcases s.checkLevel with r | _
  · rfl
  · cases s.checkedSamples <;> rfl

theorem syncBody_eq_plan (E : Env R D) (sch : Scheme) (w : Word) (s : State) :
    syncBody E sch w s = (syncPlan E sch w s).map (·.on s) := by
  unfold syncBody syncPlan
  rcases s.checkScheme sch .framed w with r | _
  · rfl
  rcases s.waveform with r | wv
  · rfl
  simp only [ok_bind]
  rcases scanOffsets (decodeAt E s sch w wv) s.syncX (List.range s.sps) [] with r | valid
  · rfl
  cases valid with
  | nil => exact outSync_eq_plan s _ _ _
  | cons v rest =>
    simp only [ok_bind]
    rcases decodeAt E s sch w wv (meanOffset (v :: rest)) with r | p
    · rfl
    · exact outSync_eq_plan s _ _ _

/-- A command but `RESET` and `CLRERR` runs a pseudocode that is its plan, put on the state it is issued in. -/
theorem exec_eq_run {i : Instr} (hr : i ≠ .reset) (hc : i ≠ .clrErr) (s : State) :
    ∃ body : Cmd, exec i s = .next (s.run (Instr.input i) body) ∧
      ∀ t, body t = (Instr.plan s.env t i).map (·.on t) := by
  cases i with
  | reset => exact absurd rfl hr
  | clrErr => exact absurd rfl hc
  | nop => exact ⟨_, rfl, fun _ => rfl⟩
  | bytes2Bits => exact ⟨_, rfl, bytes2BitsBody_eq_plan⟩
  | bits2BytesT => exact ⟨_, rfl, bits2BytesBody_eq_plan⟩
  | bits2BytesS => exact ⟨_, rfl, bits2BytesStrictBody_eq_plan⟩
  | hamEnc => exact ⟨_, rfl, hamEncBody_eq_plan⟩
  | hamDec => exact ⟨_, rfl, hamDecBody_eq_plan⟩
  | rsEnc => exact ⟨_, rfl, rsEncBody_eq_plan⟩
  | rsDec => exact ⟨_, rfl, rsDecBody_eq_plan⟩
  | frmMarkS | frmMarkE | frmWrap => exact ⟨_, rfl, frameBody_eq_plan _⟩
  | frmStripL | frmStripT | frmUnwrap => exact ⟨_, rfl, searchBody_eq_plan _⟩
  | fskMod | qpskMod | tbMod => exact ⟨_, rfl, modBody_eq_plan _ _ _⟩
  | fskDem | qpskDem | tbDem => exact ⟨_, rfl, demBody_eq_plan _ _ _⟩
  | fskDecode | qpskDecode | tbDecode => exact ⟨_, rfl, decodeBody_eq_plan _ _ _⟩
  | goertzel => exact ⟨_, rfl, goertzelBody_eq_plan _⟩
  | fskSync | qpskSync | tbSync => exact ⟨_, rfl, syncBody_eq_plan _ _ _⟩
  | noiseAdd => exact ⟨_, rfl, noiseAddBody_eq_plan _⟩

/-- A plan is decided the same of an issued command. -/
@[simp] theorem plan_issued (E : Env R D) (s : State) (i : Instr) : Instr.plan E s.issued i = Instr.plan E s i := by
  cases i <;> rfl

/-! ## How a command ends -/

/-- The ways a command other than `RESET` ends. -/
inductive Ending where
  /-- A fault is pending (60_exceptions.md R197). -/
  | refused
  | raised (r : Raise)
  /-- `CLRERR`. -/
  | cleared
  | completed (p : Plan)

/-- The plan of a completing command; the other endings write nothing but `STATUS` and `ERRINFO`. -/
def Ending.plan : Ending → Plan
  | .completed p => p
  | _ => {}

/-- `STATUS` after an ending. -/
def Ending.status : Ending → Status → Status
  | .refused, t => t
  | .raised r, t => t.issued.raise r.code
  | .cleared, t => t.issued.clearErr.complete {}
  | .completed p, t => t.issued.complete p.flags

/-- `ERRINFO` after an ending. -/
def Ending.errInfo : Ending → Word → Word
  | .raised r, _ => r.info
  | .cleared, _ => 0
  | _, w => w

/-- The state an ending leaves. -/
def Ending.on (e : Ending) (s : State) : State :=
  { e.plan.write s with
    status := e.status s.status
    errInfo := e.errInfo s.errInfo }

/-- The check of the input buffer's length (60_exceptions.md R192 step 3). -/
def State.checkInput (s : State) (i : Instr) : Except Raise Unit :=
  match Instr.input i with
  | none => .ok ()
  | some b => s.checkCapacity b (s.lengthOf b)

/-- How a command that runs ends. -/
def Ending.of : Except Raise Plan → Ending
  | .error r => .raised r
  | .ok p => .completed p

/-- How the command ends in this state. -/
def State.ending (s : State) (i : Instr) : Ending :=
  if i = .clrErr then .cleared
  else if s.status.err then .refused
  else .of (s.checkInput i >>= fun _ => Instr.plan s.env s i)

/-- Every command but `RESET` is its ending, put on the state. -/
theorem exec_eq_ending {i : Instr} (hr : i ≠ .reset) (s : State) : exec i s = .next ((s.ending i).on s) := by
  by_cases hc : i = .clrErr
  · subst hc
    rfl
  obtain ⟨body, he, hb⟩ := exec_eq_run hr hc s
  rw [he]
  unfold State.run State.ending State.checkInput
  rw [if_neg hc]
  cases s.status.err with
  | true => rfl
  | false =>
    have hset : s.issued.settle (body s.issued) = (Ending.of (Instr.plan s.env s i)).on s := by
      rw [hb, plan_issued]
      cases Instr.plan s.env s i <;> rfl
    cases Instr.input i with
    | none => exact congrArg _ hset
    | some b =>
      simp only [Bool.false_eq_true, if_false, State.issued_checkCapacity]
      rcases s.checkCapacity b (s.lengthOf b) with r | _
      · rfl
      · exact congrArg _ hset

end Sys2Proof.Machine
end


section
/-!
SUPPORT. What the plan of a command can be: the buffers it writes, which lengths they have, and that no fault it raises
has code 0. From it, everything a command can end in (`EndsIn`).
-/

namespace Sys2Proof.Machine

variable {R D : Type} {α β : Type}

/-! ## What a check, or a plan, can answer -/

/-- A raise has a code, and an answer meets `P`. -/
def Answers (P : α → Prop) : Except Raise α → Prop
  | .error r => r.code ≠ .none
  | .ok a => P a

theorem Answers.imp {P Q : α → Prop} {x : Except Raise α} (h : Answers P x) (hpq : ∀ a, P a → Q a) : Answers Q x := by
  cases x with
  | error r => exact h
  | ok a => exact hpq a h

theorem Answers.bind {P : α → Prop} {Q : β → Prop} {x : Except Raise α} {f : α → Except Raise β} (h : Answers P x)
    (hf : ∀ a, P a → Answers Q (f a)) : Answers Q (x >>= f) := by
  cases x with
  | error r => exact h
  | ok a => exact hf a h

/-- A check that raises with a code, and then what follows it. -/
theorem Answers.after {Q : β → Prop} {x : Except Raise α} {f : α → Except Raise β} (h : Answers (fun _ => True) x)
    (hf : ∀ a, Answers Q (f a)) : Answers Q (x >>= f) :=
  h.bind fun a _ => hf a

theorem answers_need {code : ErrCode} (ok : Bool) (info : Nat) (h : code ≠ .none) :
    Answers (fun _ => True) (need ok code info) := by
  cases ok with
  | false => exact h
  | true => trivial

theorem answers_firstFailure {l : List (Except Raise Unit)} (h : ∀ c ∈ l, Answers (fun _ => True) c) :
    Answers (fun _ => True) (firstFailure l) := by
  induction l with
  | nil => trivial
  | cons c rest ih =>
    cases c with
    | error r => exact h _ List.mem_cons_self
    | ok u => exact ih fun c hc => h c (List.mem_cons_of_mem _ hc)

theorem answers_checkCapacity (s : State) (b : BufId) (n : Nat) :
    Answers (fun _ => n ≤ s.capacity b) (s.checkCapacity b n) := by
  rcases Nat.lt_or_ge (s.capacity b) n with h | h
  · rw [State.checkCapacity_of_lt h]
    exact (by decide : ErrCode.capacity ≠ .none)
  · rw [State.checkCapacity_of_le h]
    exact h

theorem answers_checkHam (s : State) : Answers (fun _ => True) s.checkHam := answers_need _ _ (by decide)

theorem answers_checkRate (s : State) : Answers (fun _ => True) s.checkRate := answers_need _ _ (by decide)

theorem answers_checkSymRate (s : State) : Answers (fun _ => True) s.checkSymRate := answers_need _ _ (by decide)

theorem answers_checkLevel (s : State) : Answers (fun _ => True) s.checkLevel := answers_need _ _ (by decide)

theorem answers_checkFreq (s : State) : Answers (fun _ => True) s.checkFreq := answers_need _ _ (by decide)

theorem answers_freqChecks (s : State) (sch : Scheme) : ∀ c ∈ s.freqChecks sch, Answers (fun _ => True) c := by
  cases sch <;> simp [State.freqChecks, answers_need]

theorem answers_checkScheme (s : State) (sch : Scheme) (role : Role) (w : Word) :
    Answers (fun _ => True) (s.checkScheme sch role w) := by
  refine answers_firstFailure fun c hc => ?_
  simp only [List.mem_append, List.mem_cons, List.not_mem_nil, or_false] at hc
  rcases hc with ((hc | rfl | rfl) | hc) | hc
  · cases sch with
    | tb =>
      rw [List.mem_singleton.1 hc]
      exact answers_need _ _ (by decide)
    | fsk | qpsk => cases hc
  · exact answers_checkRate s
  · exact answers_checkSymRate s
  · exact answers_freqChecks s sch c hc
  · cases role with
    | modulate => exact List.mem_singleton.1 hc ▸ answers_checkLevel s
    | demodulate => cases hc
    | framed => exact List.mem_singleton.1 hc ▸ answers_checkHam s

theorem answers_checkedSamples (s : State) : Answers (fun w => w = s.samples) s.checkedSamples := by
  unfold State.checkedSamples
  cases firstBadSample 0 s.samples with
  | some i => exact (by decide : ErrCode.sample ≠ .none)
  | none => rfl

theorem answers_waveform (s : State) : Answers (fun _ => True) s.waveform := by
  have h := answers_checkedSamples s
  unfold State.waveform
  generalize s.checkedSamples = x at h
  cases x with
  | error r => exact h
  | ok wv =>
    dsimp only
    split
    · exact (by decide : ErrCode.emptyInput ≠ .none)
    · trivial

theorem answers_validWave (w : Word) (x : Option (List F32)) : Answers (fun _ => True) (validWave w x) := by
  cases x with
  | none => exact (by decide : ErrCode.external ≠ .none)
  | some l =>
    unfold validWave
    dsimp only
    split
    · trivial
    · exact (by decide : ErrCode.external ≠ .none)

theorem answers_demodulate (E : Env R D) (s : State) (sch : Scheme) (w : Word) (wv : List F32) (off : Nat) :
    Answers (fun _ => True) (demodulate E s sch w wv off) := by
  cases sch with
  | fsk | qpsk => trivial
  | tb =>
    unfold demodulate
    cases E.tbDem wv s.rate.toNat s.symRate.toNat off with
    | none => exact (by decide : ErrCode.external ≠ .none)
    | some b => trivial

theorem answers_decodeAt (E : Env R D) (s : State) (sch : Scheme) (w : Word) (wv : List F32) (off : Nat) :
    Answers (fun _ => True) (decodeAt E s sch w wv off) := by
  have h := answers_demodulate E s sch w wv off
  unfold decodeAt
  generalize demodulate E s sch w wv off = x at h
  cases x with
  | error r => exact h
  | ok b => trivial

/-- The scan finds at most as many offsets as it tries. -/
theorem answers_scanOffsets {dec : Nat → Except Raise (Bits × Bool)} (hdec : ∀ o, Answers (fun _ => True) (dec o))
    (exhaustive : Bool) (l valid : List Nat) :
    Answers (fun v => v.length ≤ valid.length + l.length) (scanOffsets dec exhaustive l valid) := by
  induction l generalizing valid with
  | nil => exact Nat.le_refl _
  | cons o rest ih =>
    have ho := hdec o
    unfold scanOffsets
    generalize dec o = x at ho
    cases x with
    | error r => exact ho
    | ok p =>
      dsimp only
      split
      · refine (ih (valid ++ [o])).imp fun v hv => ?_
        simp only [List.length_append, List.length_cons, List.length_nil] at hv ⊢
        omega
      · split
        · exact Nat.le_add_right _ _
        · refine (ih valid).imp fun v hv => ?_
          simp only [List.length_cons]
          omega

/-! ## The lengths of the waveforms -/

theorem length_fskWave (s : State) (A : Arith R) (b : Bits) : (fskWave s A b).length = b.length * s.sps := by
  simp [fskWave, List.length_flatMap]

theorem length_qpskWave (s : State) (A : Arith R) (b : Bits) : (qpskWave s A b).length = b.length / 2 * s.sps := by
  simp [qpskWave, List.length_flatMap]

theorem length_padded (s : State) (w : List F32) : (s.padded w).length = 2 * s.pad.toNat + w.length := by
  simp only [State.padded, List.length_append, List.length_replicate]
  omega

theorem length_noised (s : State) (E : Env R D) (w : List F32) : (s.noised E w).length = w.length :=
  length_addNoise _ _ _ _ _

/-! ## The plans -/

/-- A plan that stores bits that fit, and nothing else. -/
def BitsPlan (s : State) (p : Plan) : Prop := ∃ v f, p = { bits := some v, flags := f } ∧ v.length ≤ s.impl.capBits

/-- A plan that stores bytes that fit, and nothing else. -/
def BytesPlan (s : State) (p : Plan) : Prop := ∃ v f, p = { bytes := some v, flags := f } ∧ v.length ≤ s.impl.capBytes

/-- A plan that stores samples that fit, one draw taken each if there is noise, and nothing else. -/
def SamplesPlan (s : State) (p : Plan) : Prop :=
  ∃ v f, p = { samples := some v, taken := drawsTaken s.level v.length, flags := f } ∧ v.length ≤ s.impl.capSamples

/-- A plan that stores bits that fit, `SYNCOFF` and `SYNCCNT`, `SYNCOFF` being 0 when `SYNCCNT` is. -/
def SyncPlan (s : State) (p : Plan) : Prop :=
  ∃ v off cnt f, p = { bits := some v, sync := some (off, cnt), flags := f } ∧ v.length ≤ s.impl.capBits ∧
    (cnt = 0 → off = 0)

theorem answers_planBits (s : State) (v : Bits) (f : Flags) : Answers (BitsPlan s) (s.planBits v f) :=
  (answers_checkCapacity s .bit v.length).bind fun _ h => ⟨v, f, rfl, h⟩

theorem answers_planBytes (s : State) (v : List Byte) (f : Flags) : Answers (BytesPlan s) (s.planBytes v f) :=
  (answers_checkCapacity s .byte v.length).bind fun _ h => ⟨v, f, rfl, h⟩

theorem answers_planWave (s : State) (E : Env R D) {n : Nat} {w : List F32} (hn : w.length = n) :
    Answers (SamplesPlan s) (s.planWave E n w) := by
  subst hn
  refine (answers_checkCapacity s .samp (2 * s.pad.toNat + w.length)).bind fun _ h => ?_
  refine ⟨s.noised E (s.padded w), { empty := 2 * s.pad.toNat + w.length == 0 }, ?_, ?_⟩
  · rw [length_noised, length_padded]
  · rw [length_noised, length_padded]
    exact h

theorem answers_planSync (s : State) (p : Bits × Bool) {m n : Nat} (h : BitVec.ofNat 32 n = 0 → m = 0) :
    Answers (SyncPlan s) (s.planSync p m n) :=
  (answers_checkCapacity s .bit p.1.length).bind fun _ hv => ⟨p.1, _, _, _, rfl, hv, fun hc => by rw [h hc]; rfl⟩

theorem answers_hamEncPlan (s : State) : Answers (BitsPlan s) (hamEncPlan s) := by
  refine Answers.after (answers_firstFailure fun c hc => ?_) fun _ => answers_planBits s _ _
  rcases List.mem_pair.1 hc with rfl | rfl
  · exact answers_checkHam s
  · exact answers_need _ _ (by decide)

theorem answers_hamDecPlan (s : State) : Answers (BitsPlan s) (hamDecPlan s) :=
  (answers_checkHam s).after fun _ => by cases hamDec s.hamDSize s.bits <;> exact answers_planBits s _ _

theorem answers_framePlan (f : Nat → Bits → Bits) (s : State) : Answers (BitsPlan s) (framePlan f s) :=
  (answers_checkHam s).after fun _ => answers_planBits s _ _

theorem answers_searchPlan (f : Nat → Bits → Bits × Bool) (s : State) : Answers (BitsPlan s) (searchPlan f s) :=
  (answers_checkHam s).after fun _ => answers_planBits s _ _

theorem answers_demPlan (E : Env R D) (sch : Scheme) (w : Word) (s : State) :
    Answers (BitsPlan s) (demPlan E sch w s) :=
  (answers_checkScheme s _ _ _).after fun _ => (answers_waveform s).after fun _ =>
    (answers_demodulate E s _ _ _ _).after fun _ => answers_planBits s _ _

theorem answers_decodePlan (E : Env R D) (sch : Scheme) (w : Word) (s : State) :
    Answers (BitsPlan s) (decodePlan E sch w s) :=
  (answers_checkScheme s _ _ _).after fun _ => (answers_waveform s).after fun _ =>
    (answers_decodeAt E s _ _ _ _).after fun _ => answers_planBits s _ _

theorem answers_bits2BytesStrictPlan (s : State) : Answers (BytesPlan s) (bits2BytesStrictPlan s) :=
  (answers_need _ _ (by decide)).after fun _ => answers_planBytes s _ _

theorem answers_rsEncPlan (s : State) : Answers (BytesPlan s) (rsEncPlan s) :=
  (answers_need _ _ (by decide)).after fun _ => answers_planBytes s _ _

theorem answers_modPlan (E : Env R D) (sch : Scheme) (w : Word) (s : State) :
    Answers (SamplesPlan s) (modPlan E sch w s) := by
  refine (answers_checkScheme s _ _ _).after fun _ => (answers_need _ _ (by decide)).after fun _ => ?_
  cases sch with
  | fsk => exact answers_planWave s E (length_fskWave s E.arith s.bits)
  | qpsk => exact (answers_need _ _ (by decide)).after fun _ => answers_planWave s E (length_qpskWave s E.arith s.bits)
  | tb => exact (answers_validWave w _).after fun _ => answers_planWave s E rfl

/-- The samples `NOISE.ADD` writes are as many as it read. -/
theorem answers_noiseAddPlan (E : Env R D) {s : State} (hs : s.Fits .samp) :
    Answers (SamplesPlan s) (noiseAddPlan E s) := by
  refine (answers_checkLevel s).after fun _ => (answers_checkedSamples s).bind fun w hw => ?_
  subst hw
  refine ⟨s.noised E s.samples, Flags.written s.samples, ?_, ?_⟩
  · rw [length_noised]
  · rw [length_noised, State.length_samples]
    exact hs

theorem answers_goertzelPlan (E : Env R D) (s : State) :
    Answers (fun p => ∃ x, p = { power := some x }) (goertzelPlan E s) := by
  refine Answers.after (answers_firstFailure fun c hc => ?_) fun _ => (answers_waveform s).after fun _ => ⟨_, rfl⟩
  rcases List.mem_pair.1 hc with rfl | rfl
  · exact answers_checkRate s
  · exact answers_checkFreq s

/-- There are fewer than 2^32 offsets to try, so the number of valid ones is 0 in `SYNCCNT` only if there is none. -/
theorem answers_syncPlan (E : Env R D) (sch : Scheme) (w : Word) (s : State) :
    Answers (SyncPlan s) (syncPlan E sch w s) := by
  refine (answers_checkScheme s _ _ _).after fun _ => (answers_waveform s).after fun wv => ?_
  refine (answers_scanOffsets (fun o => answers_decodeAt E s sch w wv o) s.syncX (List.range s.sps) []).bind
    fun valid hv => ?_
  cases valid with
  | nil => exact answers_planSync s _ fun _ => rfl
  | cons v rest =>
    refine (answers_decodeAt E s sch w wv _).after fun p => answers_planSync s p fun h0 => ?_
    have hsps : s.sps < 2 ^ 32 := Nat.lt_of_le_of_lt (Nat.div_le_self _ _) s.rate.isLt
    have hlen : (v :: rest).length ≤ s.sps := by simpa using hv
    have h0' := congrArg BitVec.toNat h0
    rw [toNat_ofNat_of_lt (Nat.lt_of_le_of_lt hlen hsps)] at h0'
    simp at h0'

/-! ## What a command may complete with -/

/-- What command `i` may complete with in state `s`: it writes the buffer of its "out" column, with a sequence that
fits; `POWER` is `GOERTZEL`'s and the result of the search `SYNC`'s; draws are taken for the samples written. -/
structure Plan.Allowed (i : Instr) (s : State) (p : Plan) : Prop where
  bytes_iff : p.bytes.isSome ↔ Instr.output i = some .byte
  bits_iff : p.bits.isSome ↔ Instr.output i = some .bit
  samples_iff : p.samples.isSome ↔ Instr.output i = some .samp
  power_iff : p.power.isSome ↔ i = .goertzel
  sync_iff : p.sync.isSome ↔ i ∈ [Instr.fskSync, .qpskSync, .tbSync]
  bytes_fit : ∀ v, p.bytes = some v → v.length ≤ s.impl.capBytes
  bits_fit : ∀ v, p.bits = some v → v.length ≤ s.impl.capBits
  samples_fit : ∀ v, p.samples = some v → v.length ≤ s.impl.capSamples
  sync_zero : ∀ q, p.sync = some q → q.2 = 0 → q.1 = 0
  taken_eq : p.taken = drawsTaken s.level (p.samples.getD []).length

theorem drawsTaken_zero (level : F32) : drawsTaken level 0 = 0 := by simp [drawsTaken]

/-- A command that writes nothing. -/
theorem Plan.allowed_nothing {i : Instr} {s : State} (ho : Instr.output i = none) (hg : i ≠ .goertzel)
    (hs : i ∉ [Instr.fskSync, .qpskSync, .tbSync]) : Plan.Allowed i s {} := by
  constructor <;> simp_all [drawsTaken_zero]

theorem BitsPlan.allowed {i : Instr} {s : State} (ho : Instr.output i = some .bit)
    (hs : i ∉ [Instr.fskSync, .qpskSync, .tbSync]) {p : Plan} (h : BitsPlan s p) : p.Allowed i s := by
  obtain ⟨v, f, rfl, hv⟩ := h
  have hg : i ≠ .goertzel := by rintro rfl; cases ho
  constructor <;> simp_all [drawsTaken_zero]

theorem BytesPlan.allowed {i : Instr} {s : State} (ho : Instr.output i = some .byte)
    (hs : i ∉ [Instr.fskSync, .qpskSync, .tbSync]) {p : Plan} (h : BytesPlan s p) : p.Allowed i s := by
  obtain ⟨v, f, rfl, hv⟩ := h
  have hg : i ≠ .goertzel := by rintro rfl; cases ho
  constructor <;> simp_all [drawsTaken_zero]

theorem SamplesPlan.allowed {i : Instr} {s : State} (ho : Instr.output i = some .samp)
    (hs : i ∉ [Instr.fskSync, .qpskSync, .tbSync]) {p : Plan} (h : SamplesPlan s p) : p.Allowed i s := by
  obtain ⟨v, f, rfl, hv⟩ := h
  have hg : i ≠ .goertzel := by rintro rfl; cases ho
  constructor <;> simp_all

theorem SyncPlan.allowed {i : Instr} {s : State} (hs : i ∈ [Instr.fskSync, .qpskSync, .tbSync]) {p : Plan}
    (h : SyncPlan s p) : p.Allowed i s := by
  obtain ⟨v, off, cnt, f, rfl, hv, hz⟩ := h
  have ho : Instr.output i = some .bit := by
    simp only [List.mem_cons, List.not_mem_nil, or_false] at hs
    rcases hs with rfl | rfl | rfl <;> rfl
  have hg : i ≠ .goertzel := by rintro rfl; cases ho
  constructor <;> simp_all [drawsTaken_zero]

/-- Whatever a command whose input fits decides is allowed to it. -/
theorem answers_plan (E : Env R D) {i : Instr} {s : State} (hin : ∀ b, Instr.input i = some b → s.Fits b) :
    Answers (Plan.Allowed i s) (Instr.plan E s i) := by
  cases i with
  | nop | reset | clrErr => exact Plan.allowed_nothing rfl (by decide) (by decide)
  | bytes2Bits => exact (answers_planBits s _ _).imp fun _ => BitsPlan.allowed rfl (by decide)
  | bits2BytesT | rsDec => exact (answers_planBytes s _ _).imp fun _ => BytesPlan.allowed rfl (by decide)
  | bits2BytesS => exact (answers_bits2BytesStrictPlan s).imp fun _ => BytesPlan.allowed rfl (by decide)
  | rsEnc => exact (answers_rsEncPlan s).imp fun _ => BytesPlan.allowed rfl (by decide)
  | hamEnc => exact (answers_hamEncPlan s).imp fun _ => BitsPlan.allowed rfl (by decide)
  | hamDec => exact (answers_hamDecPlan s).imp fun _ => BitsPlan.allowed rfl (by decide)
  | frmMarkS =>
    exact (answers_framePlan (fun d _ => codedMark d .start) s).imp fun _ => BitsPlan.allowed rfl (by decide)
  | frmMarkE =>
    exact (answers_framePlan (fun d _ => codedMark d .finish) s).imp fun _ => BitsPlan.allowed rfl (by decide)
  | frmWrap => exact (answers_framePlan wrapFrame s).imp fun _ => BitsPlan.allowed rfl (by decide)
  | frmStripL | frmStripT | frmUnwrap => exact (answers_searchPlan _ s).imp fun _ => BitsPlan.allowed rfl (by decide)
  | fskMod | qpskMod | tbMod => exact (answers_modPlan E _ _ s).imp fun _ => SamplesPlan.allowed rfl (by decide)
  | fskDem | qpskDem | tbDem => exact (answers_demPlan E _ _ s).imp fun _ => BitsPlan.allowed rfl (by decide)
  | fskDecode | qpskDecode | tbDecode =>
    exact (answers_decodePlan E _ _ s).imp fun _ => BitsPlan.allowed rfl (by decide)
  | goertzel =>
    refine (answers_goertzelPlan E s).imp ?_
    rintro _ ⟨x, rfl⟩
    constructor <;> simp [Instr.output, drawsTaken_zero]
  | fskSync | qpskSync | tbSync => exact (answers_syncPlan E _ _ s).imp fun _ => SyncPlan.allowed (by decide)
  | noiseAdd => exact (answers_noiseAddPlan E (hin .samp rfl)).imp fun _ => SamplesPlan.allowed rfl (by decide)

/-! ## What a command can end in -/

/-- All a command but `RESET` can end in. -/
inductive EndsIn (i : Instr) (s : State) : Ending → Prop
  | refused (hi : i ≠ .clrErr) (he : s.status.err = true) : EndsIn i s .refused
  | raised {r : Raise} (hi : i ≠ .clrErr) (he : s.status.err = false) (hr : r.code ≠ .none) : EndsIn i s (.raised r)
  | cleared (hi : i = .clrErr) : EndsIn i s .cleared
  | completed {p : Plan} (hi : i ≠ .clrErr) (he : s.status.err = false) (hp : p.Allowed i s) : EndsIn i s (.completed p)

theorem answers_checkInput (s : State) (i : Instr) :
    Answers (fun _ => ∀ b, Instr.input i = some b → s.Fits b) (s.checkInput i) := by
  unfold State.checkInput
  cases Instr.input i with
  | none => exact fun b hb => nomatch hb
  | some b =>
    refine (answers_checkCapacity s b (s.lengthOf b)).imp fun _ h c hc => ?_
    cases hc
    exact h

/-- Everything a command can do, said once. -/
theorem endsIn_ending (s : State) (i : Instr) : EndsIn i s (s.ending i) := by
  unfold State.ending
  split
  · exact .cleared ‹_›
  · rename_i hi
    split
    · exact .refused hi ‹_›
    · rename_i he
      have he' : s.status.err = false := Bool.eq_false_iff.2 he
      have h := (answers_checkInput s i).bind fun _ hin => answers_plan s.env hin
      cases hx : s.checkInput i >>= fun _ => Instr.plan s.env s i with
      | error r =>
        rw [hx] at h
        exact .raised hi he' h
      | ok p =>
        rw [hx] at h
        exact .completed hi he' h

end Sys2Proof.Machine
end


section
/-!
SUPPORT. The invariant: every ending of a command keeps it, and so does every other access.
-/

namespace Sys2Proof.Machine

/-! ## Commands -/

theorem Buf.wf_after {α : Type} {b : Buf α} (n : Word) (v : Option (List α)) (h : b.wf = true) :
    (b.after n v).wf = true := by
  cases v with
  | none => exact h
  | some v => exact Buf.wf_put b n.toNat v h

theorem Buf.within_after {α : Type} {b : Buf α} {cap : Nat} (n : Word) {v : Option (List α)}
    (hv : ∀ w, v = some w → w.length ≤ cap) (h : b.within cap = true) : (b.after n v).within cap = true := by
  cases v with
  | none => exact h
  | some v => exact Buf.within_put b cap n.toNat v (hv v rfl) h

/-- Every ending keeps the invariant. -/
theorem EndsIn.inv_on {i : Instr} {s : State} {e : Ending} (he : EndsIn i s e) (h : s.Inv) : (e.on s).Inv := by
  cases he with
  | refused _ _ => exact h
  | raised _ _ hr =>
    obtain ⟨himpl, hbyte, hbit, hsamp, hcfg, -, -, -, hsync⟩ := h
    exact ⟨himpl, hbyte, hbit, hsamp, hcfg, rfl, nofun, fun _ => ⟨hr, rfl⟩, hsync⟩
  | cleared _ =>
    obtain ⟨himpl, hbyte, hbit, hsamp, hcfg, -, -, -, hsync⟩ := h
    exact ⟨himpl, hbyte, hbit, hsamp, hcfg, rfl, fun _ => ⟨rfl, rfl⟩, nofun, hsync⟩
  | @completed p _ hs hp =>
    obtain ⟨himpl, hbyte, hbit, hsamp, hcfg, -, hok, -, hsync⟩ := h
    refine ⟨himpl, ⟨Buf.wf_after _ _ hbyte.1, Buf.within_after _ hp.bytes_fit hbyte.2⟩,
      ⟨Buf.wf_after _ _ hbit.1, Buf.within_after _ hp.bits_fit hbit.2⟩,
      ⟨Buf.wf_after _ _ hsamp.1, Buf.within_after _ hp.samples_fit hsamp.2⟩, hcfg, rfl, fun _ => hok hs,
      fun ht => absurd (hs.symm.trans ht) (by decide), ?_⟩
    show (p.sync.map Prod.snd).getD s.syncCnt = 0 → (p.sync.map Prod.fst).getD s.syncOff = 0
    cases hq : p.sync with
    | none => exact hsync
    | some q => exact hp.sync_zero q hq

theorem zero_and_not_cfgMask : (0 : Word) &&& ~~~cfgMask = 0 := by decide

theorem State.inv_restart {s : State} (h : s.Inv) : s.restart.Inv := by
  obtain ⟨himpl, -⟩ := h
  exact ⟨himpl, ⟨rfl, rfl⟩, ⟨rfl, rfl⟩, ⟨rfl, rfl⟩, zero_and_not_cfgMask, rfl, fun _ => ⟨rfl, rfl⟩, nofun, fun _ => rfl⟩

/-- Every command answers a next state, keeps the invariant and leaves the parameters. -/
theorem exec_keeps_inv (i : Instr) {s : State} (h : s.Inv) : ∃ t, exec i s = .next t ∧ t.Inv ∧ t.impl = s.impl := by
  by_cases hi : i = .reset
  · subst hi
    exact ⟨_, rfl, State.inv_restart h, rfl⟩
  · exact ⟨_, exec_eq_ending hi s, (endsIn_ending s i).inv_on h, rfl⟩

/-! ## Accesses -/

/-- An illegal word ends as a command does that refuses or raises. -/
theorem State.inv_illegal {s : State} (w : Word) (h : s.Inv) : (s.illegal w).Inv := by
  unfold State.illegal
  split
  · exact h
  · rename_i he
    have hr : EndsIn .nop s (.raised { code := .illegalCmd, info := w }) :=
      .raised (by decide) (Bool.eq_false_iff.2 he) (by simp)
    exact hr.inv_on h

/-- The write mask of `CFG` keeps the reserved bits 0 (10_state.md R24). -/
theorem and_cfgMask_reserved (w : Word) : w &&& cfgMask &&& ~~~cfgMask = 0 := by
  rw [BitVec.and_assoc, (by decide : cfgMask &&& ~~~cfgMask = 0)]
  exact BitVec.and_zero

theorem State.inv_writeReg {s : State} (off : Nat) (w : Word) (h : s.Inv) : (s.writeReg off w).Inv := by
  unfold State.writeReg
  split
  case h_1 =>
    obtain ⟨himpl, hbyte, hbit, hsamp, -, hrest⟩ := h
    exact ⟨himpl, hbyte, hbit, hsamp, and_cfgMask_reserved w, hrest⟩
  all_goals exact h

theorem State.impl_writeReg (s : State) (off : Nat) (w : Word) : (s.writeReg off w).impl = s.impl := by
  unfold State.writeReg
  split <;> rfl

/-- An outcome that, if it is a next state, meets the invariant with the parameters of `s`. -/
def KeepsInv (s : State) (o : Host.Outcome State Fault Refusal) : Prop :=
  ∀ t, o = .next t → t.Inv ∧ t.impl = s.impl

theorem keepsInv_next {s t : State} (ht : t.Inv) (hi : t.impl = s.impl) : KeepsInv s (.next t) := by
  intro u hu
  cases hu
  exact ⟨ht, hi⟩

theorem keepsInv_refused (s : State) (r : Refusal) : KeepsInv s (.refused r) := by
  intro t h
  cases h

theorem keepsInv_hostWriteReg {s : State} (off : Nat) (w : Word) (h : s.Inv) : KeepsInv s (s.hostWriteReg off w) := by
  unfold State.hostWriteReg
  split
  · unfold State.issue
    split
    · rename_i i _
      obtain ⟨t, ht, hinv, himpl⟩ := exec_keeps_inv i h
      rw [ht]
      exact keepsInv_next hinv himpl
    · refine keepsInv_next (State.inv_illegal w h) ?_
      unfold State.illegal
      split <;> rfl
  · exact keepsInv_next (State.inv_writeReg off w h) (State.impl_writeReg s off w)

theorem keepsInv_writeByte {s : State} (i : Nat) (v : Byte) (h : s.Inv) : KeepsInv s (.next (s.writeByte i v)) := by
  unfold State.writeByte
  split
  · rename_i hi
    obtain ⟨himpl, hbyte, hrest⟩ := h
    exact keepsInv_next ⟨himpl, ⟨Buf.wf_write _ i v hbyte.1, Buf.within_write _ _ i v hi hbyte.2⟩, hrest⟩ rfl
  · exact keepsInv_next h rfl

theorem keepsInv_writeBit {s : State} (i : Nat) (v : Bool) (h : s.Inv) : KeepsInv s (.next (s.writeBit i v)) := by
  unfold State.writeBit
  split
  · rename_i hi
    obtain ⟨himpl, hbyte, hbit, hrest⟩ := h
    exact keepsInv_next ⟨himpl, hbyte, ⟨Buf.wf_write _ i v hbit.1, Buf.within_write _ _ i v hi hbit.2⟩, hrest⟩ rfl
  · exact keepsInv_next h rfl

theorem keepsInv_writeSample {s : State} (i : Nat) (v : F32) (h : s.Inv) : KeepsInv s (.next (s.writeSample i v)) := by
  unfold State.writeSample
  split
  · rename_i hi
    obtain ⟨himpl, hbyte, hbit, hsamp, hrest⟩ := h
    exact keepsInv_next
      ⟨himpl, hbyte, hbit, ⟨Buf.wf_write _ i v hsamp.1, Buf.within_write _ _ i v hi hsamp.2⟩, hrest⟩ rfl
  · exact keepsInv_next h rfl

theorem keepsInv_hostBusWrite {s : State} (addr : Nat) (w : Word) (h : s.Inv) :
    KeepsInv s (s.hostBusWrite addr w) := by
  unfold State.hostBusWrite
  repeat' split
  · exact keepsInv_hostWriteReg addr w h
  · exact keepsInv_writeByte _ _ h
  · exact keepsInv_writeBit _ _ h
  · exact keepsInv_writeSample _ _ h
  · exact keepsInv_next h rfl

theorem keepsInv_access {s : State} (a : HostAccess) (h : s.Inv) : KeepsInv s (s.access a) := by
  unfold State.access
  split
  · exact keepsInv_refused s _
  split
  · exact keepsInv_refused s _
  cases a with
  | writeReg off w => exact keepsInv_hostWriteReg off w h
  | readReg off => exact keepsInv_next h rfl
  | writeByte i v => exact keepsInv_writeByte i v h
  | writeBit i v => exact keepsInv_writeBit i v h
  | writeSample i v => exact keepsInv_writeSample i v h
  | readBuf b i => exact keepsInv_next h rfl
  | busWrite addr w => exact keepsInv_hostBusWrite addr w h
  | busRead addr => exact keepsInv_next h rfl
  | hardReset => exact keepsInv_next (State.inv_restart h) rfl

/-- Settles O55: a step is an access, and every access keeps the invariant. -/
theorem stepKeepsStateInvariant : Obligations.StepKeepsStateInvariant := by
  unfold Obligations.StepKeepsStateInvariant
  intro s t h ht
  rcases step_cases s with ⟨-, hs⟩ | ⟨a, rest, -, hs⟩
  · rw [hs] at ht
    exact keepsInv_next h rfl t ht
  · rw [hs] at ht
    exact keepsInv_access (s := { s with host := rest }) a h t ht

/-- Settles O56: no element is written, and every register but `CAPS` is 0. -/
theorem resetStateMeetsInvariant : Obligations.ResetStateMeetsInvariant := by
  unfold Obligations.ResetStateMeetsInvariant
  have hinv : ∀ p : Params, p.ok = true → (State.powerOn p).Inv := fun p hp =>
    ⟨hp, ⟨rfl, rfl⟩, ⟨rfl, rfl⟩, ⟨rfl, rfl⟩, zero_and_not_cfgMask, rfl, fun _ => ⟨rfl, rfl⟩, nofun, fun _ => rfl⟩
  refine ⟨hinv _ (by decide), fun p hp => ⟨hinv p hp, fun off => ?_, rfl, rfl, rfl⟩⟩
  by_cases hoff : off = 0x0C
  · subst hoff
    rfl
  · rw [if_neg hoff]
    unfold State.readReg
    split
    case h_3 => exact absurd rfl hoff
    case h_1 => exact (by decide : Status.clear.word = 0)
    case h_4 => exact (by decide : (0 : Word) &&& cfgMask = 0)
    all_goals rfl

end Sys2Proof.Machine
end

section
/-!
SUPPORT. What a command leaves unchanged (10_state.md R16 to R19, R30, R31; 30_encoding.md R62): an ending writes what
its plan does, and which parts a plan writes is decided by the command and by whether it completed.
-/

namespace Sys2Proof.Machine

variable {i : Instr} {s : State} {e : Ending}

/-- No ending changes a configuration or operand register, the parameters or the host's side. -/
theorem Ending.sameOperands_on (e : Ending) (s : State) : SameOperands s (e.on s) ∧ SameHost s (e.on s) := by
  and_intros <;> rfl

/-! ## Which parts of the state are written -/

/-- A part that every plan allowed to the command writes, or none does, is written exactly when the command
completes. -/
theorem EndsIn.written_iff (he : EndsIn i s e) {writes : Plan → Bool} {P : Prop} (h0 : writes {} = false)
    (hc : i = .clrErr → ¬ P) (hp : ∀ p : Plan, p.Allowed i s → (writes p = true ↔ P)) :
    writes e.plan = true ↔ P ∧ (e.on s).status.err = false := by
  have hnone : ¬ writes {} = true := by simp [h0]
  cases he with
  | refused _ herr => exact iff_of_false hnone fun h => nomatch herr.symm.trans h.2
  | raised _ _ _ => exact iff_of_false hnone fun h => nomatch h.2
  | cleared hi => exact iff_of_false hnone fun h => hc hi h.1
  | completed _ herr ha => exact (hp _ ha).trans (iff_self_and.2 fun _ => herr)

theorem EndsIn.bytes_iff (he : EndsIn i s e) :
    e.plan.bytes.isSome ↔ Instr.output i = some .byte ∧ (e.on s).status.err = false :=
  he.written_iff (writes := fun p => p.bytes.isSome) rfl (by rintro rfl; decide) fun _ hp => hp.bytes_iff

theorem EndsIn.bits_iff (he : EndsIn i s e) :
    e.plan.bits.isSome ↔ Instr.output i = some .bit ∧ (e.on s).status.err = false :=
  he.written_iff (writes := fun p => p.bits.isSome) rfl (by rintro rfl; decide) fun _ hp => hp.bits_iff

theorem EndsIn.samples_iff (he : EndsIn i s e) :
    e.plan.samples.isSome ↔ Instr.output i = some .samp ∧ (e.on s).status.err = false :=
  he.written_iff (writes := fun p => p.samples.isSome) rfl (by rintro rfl; decide) fun _ hp => hp.samples_iff

theorem EndsIn.power_iff (he : EndsIn i s e) :
    e.plan.power.isSome ↔ i = .goertzel ∧ (e.on s).status.err = false :=
  he.written_iff (writes := fun p => p.power.isSome) rfl (by rintro rfl; decide) fun _ hp => hp.power_iff

theorem EndsIn.sync_iff (he : EndsIn i s e) :
    e.plan.sync.isSome ↔ i ∈ [Instr.fskSync, .qpskSync, .tbSync] ∧ (e.on s).status.err = false :=
  he.written_iff (writes := fun p => p.sync.isSome) rfl (by rintro rfl; decide) fun _ hp => hp.sync_iff

/-- Draws are taken for the samples written. -/
theorem EndsIn.taken_eq (he : EndsIn i s e) : e.plan.taken = drawsTaken s.level (e.plan.samples.getD []).length := by
  cases he with
  | completed _ _ hp => exact hp.taken_eq
  | _ => exact (drawsTaken_zero s.level).symm

theorem eq_none_of_iff {α : Type} {x : Option α} {P Q : Prop} (h : x.isSome ↔ P ∧ Q) (hP : ¬ P) : x = none :=
  Option.not_isSome_iff_eq_none.1 fun hx => hP (h.1 hx).1

/-! ## A part that is not written is as before -/

theorem Ending.power_on (h : e.plan.power = none) : (e.on s).power = s.power := by
  simp [Ending.on, Plan.write, h]

theorem Ending.sync_on (h : e.plan.sync = none) : SameSync s (e.on s) := by
  simp [SameSync, Ending.on, Plan.write, h]

theorem Ending.bytes_on (h : e.plan.bytes = none) : SameBytes s (e.on s) := by
  simp [SameBytes, State.byteAt, Ending.on, Plan.write, h, lengthAfter, Buf.after, epochWith]

theorem Ending.bits_on (h : e.plan.bits = none) : SameBits s (e.on s) := by
  simp [SameBits, State.bitAt, Ending.on, Plan.write, h, lengthAfter, Buf.after, epochWith]

theorem Ending.samples_on (h : e.plan.samples = none) : SameSamples s (e.on s) := by
  simp [SameSamples, State.sampleAt, Ending.on, Plan.write, h, lengthAfter, Buf.after, epochWith]

theorem Ending.draws_on (h : e.plan.taken = 0) : (e.on s).draws = s.draws := by
  simp [Ending.on, Plan.write, h]

/-- Settles O59: a command writes what its ending's plan writes. -/
theorem commandsWriteOnlyTheirOutputs : Obligations.CommandsWriteOnlyTheirOutputs := by
  unfold Obligations.CommandsWriteOnlyTheirOutputs
  intro i s t hi ht
  rw [exec_eq_ending hi] at ht
  cases ht
  have he := endsIn_ending s i
  obtain ⟨hoperands, hhost⟩ := (s.ending i).sameOperands_on s
  refine ⟨hoperands, hhost, fun h => Ending.power_on (eq_none_of_iff he.power_iff h),
    fun h => Ending.sync_on (eq_none_of_iff he.sync_iff h), fun h => Ending.bytes_on (eq_none_of_iff he.bytes_iff h),
    fun h => Ending.bits_on (eq_none_of_iff he.bits_iff h), fun h => ?_⟩
  have hsamples := eq_none_of_iff he.samples_iff h
  refine ⟨Ending.samples_on hsamples, Ending.draws_on ?_⟩
  rw [he.taken_eq, hsamples]
  exact drawsTaken_zero s.level

end Sys2Proof.Machine
end

section
/-!
SUPPORT. Issue, and the registers as they are read (10_state.md R10, R12, R13, R20, R23, R24, R32).
-/

namespace Sys2Proof.Machine

/-- Settles O44: the check of the input's length comes before the command's plan. -/
theorem inputBeyondCapacityFaults : Obligations.InputBeyondCapacityFaults := by
  unfold Obligations.InputBeyondCapacityFaults
  intro i b s hin herr hcap
  have hr : i ≠ .reset := by rintro rfl; cases hin
  have hc : i ≠ .clrErr := by rintro rfl; cases hin
  obtain ⟨body, hexec, -⟩ := exec_eq_run hr hc s
  rw [hexec, hin, State.run_of_too_long body herr hcap]
  cases b <;> rfl

/-- Settles O4: a write to `CMD` of a word that decodes is `exec`, whichever way the access came to the list. -/
theorem stepRunsDecodedCommand : Obligations.StepRunsDecodedCommand := by
  unfold Obligations.StepRunsDecodedCommand
  refine ⟨fun s w i hw hb => ?_, fun s hs => ?_, fun s a hb hwf ha => ?_⟩
  · have hstep : step { s with host := .writeReg 0 w :: s.host } = exec i s := by
      simp [step, State.access, HostAccess.wf, hb, State.hostWriteReg, State.issue, hw]
    refine ⟨hstep, ?_⟩
    have hword : BitVec.ofNat 32 (w.toNat % 2 ^ 32) = w := by
      rw [Nat.mod_eq_of_lt w.isLt, BitVec.ofNat_toNat, BitVec.setWidth_eq]
    rw [State.withFetchWord, hword]
    exact hstep
  · simp [step, hs]
  · simp [step, State.access, hb, hwf, ha]

/-! ## The word `STATUS` reads as (10_state.md R20) -/

/-- Bits 15:0 of the word. -/
def Status.lowBits (t : Status) : BitVec (8 + (1 + (2 + (1 + (1 + (1 + (1 + 1))))))) :=
  t.errCode.code ++ (BitVec.ofBool t.decFail ++ (t.rsStat.code ++ (BitVec.ofBool t.found
    ++ (BitVec.ofBool t.empty ++ (BitVec.ofBool t.err ++ (BitVec.ofBool t.done ++ BitVec.ofBool t.busy))))))

theorem Status.getLsbD_word (t : Status) (k : Nat) : t.word.getLsbD k = t.lowBits.getLsbD k := by
  have h : t.word.getLsbD k = if k < 16 then t.lowBits.getLsbD k else (0 : BitVec 16).getLsbD (k - 16) :=
    BitVec.getLsbD_append
  rw [h]
  split
  · rfl
  · rename_i hk
    rw [BitVec.getLsbD_of_ge t.lowBits k (Nat.not_lt.1 hk)]
    exact BitVec.getLsbD_zero

theorem Status.flags_word (t : Status) :
    t.word.getLsbD 0 = t.busy ∧ t.word.getLsbD 1 = t.done ∧ t.word.getLsbD 2 = t.err ∧ t.word.getLsbD 3 = t.empty ∧
      t.word.getLsbD 4 = t.found ∧ t.word.getLsbD 7 = t.decFail := by
  simp only [Status.getLsbD_word, Status.lowBits, BitVec.getLsbD_append]
  simp

theorem Status.rsStat_word (t : Status) : t.word.extractLsb' 5 2 = t.rsStat.code := by
  refine BitVec.eq_of_getLsbD_eq fun k hk => ?_
  simp only [BitVec.getLsbD_extractLsb', Status.getLsbD_word, Status.lowBits, BitVec.getLsbD_append]
  simp [hk, show 5 + k < 7 by omega, show 5 + k < 8 by omega]

theorem Status.errCode_word (t : Status) : t.word.extractLsb' 8 8 = t.errCode.code := by
  refine BitVec.eq_of_getLsbD_eq fun k hk => ?_
  simp only [BitVec.getLsbD_extractLsb', Status.getLsbD_word, Status.lowBits, BitVec.getLsbD_append]
  simp [hk, show ¬ 8 + k < 8 by omega]

theorem Status.high_word (t : Status) : t.word.extractLsb' 16 16 = 0 := by
  refine BitVec.eq_of_getLsbD_eq fun k hk => ?_
  rw [BitVec.getLsbD_extractLsb', Status.getLsbD_word, BitVec.getLsbD_of_ge _ _ (Nat.le_add_right _ _)]
  simp

/-- Settles O7: a read of `STATUS` is its word, and every other read is the register. -/
theorem registersReadTheirFields : Obligations.RegistersReadTheirFields := by
  unfold Obligations.RegistersReadTheirFields
  intro s
  obtain ⟨hbusy, hdone, herr, hempty, hfound, hdec⟩ := s.status.flags_word
  refine ⟨⟨hbusy, hdone, herr, hempty, hfound, hdec, ?_, ?_, s.status.high_word⟩, ?_⟩
  · refine s.status.rsStat_word.trans ?_
    cases s.status.rsStat <;> rfl
  · refine s.status.errCode_word.trans ?_
    cases s.status.errCode <;> rfl
  · have hcaps : s.caps = if s.impl.tbPresent then 7 else 3 := by
      unfold State.caps
      cases s.impl.tbPresent <;> rfl
    rw [← hcaps]
    rfl

end Sys2Proof.Machine
end


section
/-!
SUPPORT. What a command does not read (10_state.md R16 to R19, R24 to R28, R30 to R32, R34; 00_scope.md R2): its
ending is the same of two states that differ there only. An ending rewrites each part of the state apart from the others, so what
is then left differs there only.
-/

namespace Sys2Proof.Machine

variable {R D : Type} {i : Instr} {s : State}

/-! ## Registers

Of each command either the hypothesis excludes it, or the field does not occur in what it reads, and then the two
endings are the same by definition. -/

theorem ending_offset (s : State) (x : Word)
    (hi : i ∉ [Instr.fskDem, .qpskDem, .tbDem, .fskDecode, .qpskDecode, .tbDecode]) :
    State.ending { s with offset := x } i = s.ending i := by
  cases i <;> simp at hi <;> rfl

theorem ending_freq (s : State) (x : F32) (hi : i ≠ .goertzel) :
    State.ending { s with freq := x } i = s.ending i := by
  cases i <;> simp at hi <;> rfl

theorem ending_level (s : State) (x : F32) (hi : i ∉ [Instr.fskMod, .qpskMod, .tbMod, .noiseAdd]) :
    State.ending { s with level := x } i = s.ending i := by
  cases i <;> simp at hi <;> rfl

theorem ending_pad (s : State) (x : Word) (hi : i ∉ [Instr.fskMod, .qpskMod, .tbMod]) :
    State.ending { s with pad := x } i = s.ending i := by
  cases i <;> simp at hi <;> rfl

theorem ending_symRate (s : State) (x : Word) (hi : Instr.scheme i = none) :
    State.ending { s with symRate := x } i = s.ending i := by
  cases i <;> simp [Instr.scheme] at hi <;> rfl

theorem ending_rate (s : State) (x : Word) (hi : Instr.scheme i = none) (hg : i ≠ .goertzel) :
    State.ending { s with rate := x } i = s.ending i := by
  cases i <;> simp [Instr.scheme] at hi hg <;> rfl

theorem ending_fskTones (s : State) (x y : F32) (hi : i ∉ [Instr.fskMod, .fskDem, .fskDecode, .fskSync]) :
    State.ending { s with fskF0 := x, fskF1 := y } i = s.ending i := by
  cases i <;> simp at hi <;> rfl

theorem ending_qpskTones (s : State) (b m0 m1 m2 m3 : F32)
    (hi : i ∉ [Instr.qpskMod, .qpskDem, .qpskDecode, .qpskSync]) :
    State.ending { s with qpskBase := b, qpskMult0 := m0, qpskMult1 := m1, qpskMult2 := m2, qpskMult3 := m3 } i =
      s.ending i := by
  cases i <;> simp at hi <;> rfl

/-- No command reads the result registers, `ERRINFO` or the host's side. -/
theorem ending_results (s : State) (i : Instr) (p : F32) (off cnt info : Word) (h : List HostAccess) (r : Word) :
    State.ending { s with power := p, syncOff := off, syncCnt := cnt, errInfo := info, host := h, reply := r } i =
      s.ending i := by
  cases i <;> rfl

/-- An ending is decided by `ERR`, the check of the input and the plan. -/
theorem ending_congr {u : State} (herr : u.status.err = s.status.err) (hin : u.checkInput i = s.checkInput i)
    (hplan : Instr.plan u.env u i = Instr.plan s.env s i) : u.ending i = s.ending i := by
  unfold State.ending
  rw [herr, hin, hplan]

/-- Of `STATUS` a command reads `ERR` alone. -/
theorem ending_status (s : State) (i : Instr) {u : Status} (hu : u.err = s.status.err) :
    State.ending { s with status := u } i = s.ending i := by
  have hplan : Instr.plan s.env { s with status := u } i = Instr.plan s.env s i := by cases i <;> rfl
  exact ending_congr hu rfl hplan

/-! ## `CFG` -/

/-- Words that agree under a mask agree in the bits the mask has. -/
theorem getLsbD_eq_of_and_eq {x y m : Word} (h : x &&& m = y &&& m) {k : Nat} (hm : m.getLsbD k = true) :
    x.getLsbD k = y.getLsbD k := by
  have hk := congrArg (fun w => BitVec.getLsbD w k) h
  simpa [hm] using hk

theorem hamDSize_cfg {x : Word} {m : Word} (h : x &&& m = s.cfg &&& m) (hm : ∀ k < 8, m.getLsbD k = true) :
    State.hamDSize { s with cfg := x } = s.hamDSize := by
  refine congrArg BitVec.toNat (BitVec.eq_of_getLsbD_eq fun k hk => ?_)
  simp only [BitVec.getLsbD_extractLsb', hk, decide_true, Bool.true_and, Nat.zero_add]
  exact getLsbD_eq_of_and_eq h (hm k hk)

theorem hamEncPlan_cfg {x : Word} (h : State.hamDSize { s with cfg := x } = s.hamDSize) :
    hamEncPlan { s with cfg := x } = hamEncPlan s := by
  unfold hamEncPlan State.checkHam
  rw [h]
  rfl

theorem hamDecPlan_cfg {x : Word} (h : State.hamDSize { s with cfg := x } = s.hamDSize) :
    hamDecPlan { s with cfg := x } = hamDecPlan s := by
  unfold hamDecPlan State.checkHam
  rw [h]
  rfl

theorem framePlan_cfg (f : Nat → Bits → Bits) {x : Word} (h : State.hamDSize { s with cfg := x } = s.hamDSize) :
    framePlan f { s with cfg := x } = framePlan f s := by
  unfold framePlan State.checkHam
  rw [h]
  rfl

theorem searchPlan_cfg (f : Nat → Bits → Bits × Bool) {x : Word}
    (h : State.hamDSize { s with cfg := x } = s.hamDSize) : searchPlan f { s with cfg := x } = searchPlan f s := by
  unfold searchPlan State.checkHam
  rw [h]
  rfl

theorem checkScheme_framed_cfg (sch : Scheme) (w : Word) {x : Word}
    (h : State.hamDSize { s with cfg := x } = s.hamDSize) :
    State.checkScheme { s with cfg := x } sch .framed w = s.checkScheme sch .framed w := by
  have hham : State.checkHam { s with cfg := x } = s.checkHam := by rw [State.checkHam, h, State.checkHam]
  cases sch <;> exact congrArg (fun c => firstFailure (_ ++ [c])) hham

theorem decodeAt_cfg (E : Env R D) (sch : Scheme) (w : Word) {x : Word}
    (h : State.hamDSize { s with cfg := x } = s.hamDSize) :
    decodeAt E { s with cfg := x } sch w = decodeAt E s sch w := by
  unfold decodeAt
  rw [h]
  rfl

theorem decodePlan_cfg (E : Env R D) (sch : Scheme) (w : Word) {x : Word}
    (h : State.hamDSize { s with cfg := x } = s.hamDSize) :
    decodePlan E sch w { s with cfg := x } = decodePlan E sch w s := by
  unfold decodePlan
  rw [checkScheme_framed_cfg sch w h, decodeAt_cfg E sch w h]
  rfl

theorem syncPlan_cfg (E : Env R D) (sch : Scheme) (w : Word) {x : Word}
    (h : State.hamDSize { s with cfg := x } = s.hamDSize) (hx : State.syncX { s with cfg := x } = s.syncX) :
    syncPlan E sch w { s with cfg := x } = syncPlan E sch w s := by
  unfold syncPlan
  rw [checkScheme_framed_cfg sch w h, decodeAt_cfg E sch w h, hx]
  rfl

theorem noised_cfg (E : Env R D) {x : Word} (h : State.noiseGauss { s with cfg := x } = s.noiseGauss) :
    State.noised { s with cfg := x } E = s.noised E := by
  unfold State.noised
  rw [h]

theorem modPlan_cfg (E : Env R D) (sch : Scheme) (w : Word) {x : Word}
    (h : State.noiseGauss { s with cfg := x } = s.noiseGauss) :
    modPlan E sch w { s with cfg := x } = modPlan E sch w s := by
  unfold modPlan State.planWave
  rw [noised_cfg E h]
  cases sch <;> rfl

theorem noiseAddPlan_cfg (E : Env R D) {x : Word} (h : State.noiseGauss { s with cfg := x } = s.noiseGauss) :
    noiseAddPlan E { s with cfg := x } = noiseAddPlan E s := by
  unfold noiseAddPlan
  rw [noised_cfg E h]
  rfl

/-- A command decides the same when the bits of `CFG` it reads are the same (10_state.md R24). -/
theorem plan_cfg (E : Env R D) {x : Word} (h : x &&& Instr.cfgRead i = s.cfg &&& Instr.cfgRead i) :
    Instr.plan E { s with cfg := x } i = Instr.plan E s i := by
  cases i with
  | hamEnc => exact hamEncPlan_cfg (hamDSize_cfg h (by decide))
  | hamDec => exact hamDecPlan_cfg (hamDSize_cfg h (by decide))
  | frmMarkS => exact framePlan_cfg (fun d _ => codedMark d .start) (hamDSize_cfg h (by decide))
  | frmMarkE => exact framePlan_cfg (fun d _ => codedMark d .finish) (hamDSize_cfg h (by decide))
  | frmWrap => exact framePlan_cfg wrapFrame (hamDSize_cfg h (by decide))
  | frmStripL | frmStripT | frmUnwrap => exact searchPlan_cfg _ (hamDSize_cfg h (by decide))
  | fskDecode | qpskDecode | tbDecode => exact decodePlan_cfg E _ _ (hamDSize_cfg h (by decide))
  | fskSync | qpskSync | tbSync =>
    exact syncPlan_cfg E _ _ (hamDSize_cfg h (by decide)) (getLsbD_eq_of_and_eq h (k := 8) (by decide))
  | fskMod | qpskMod | tbMod => exact modPlan_cfg E _ _ (getLsbD_eq_of_and_eq h (k := 9) (by decide))
  | noiseAdd => exact noiseAddPlan_cfg E (getLsbD_eq_of_and_eq h (k := 9) (by decide))
  | _ => rfl

theorem ending_cfg {x : Word} (h : x &&& Instr.cfgRead i = s.cfg &&& Instr.cfgRead i) :
    State.ending { s with cfg := x } i = s.ending i :=
  ending_congr rfl rfl (plan_cfg s.env h)

/-! ## Buffers -/

theorem ending_byteBuf (s : State) (n : Word) (b : Buf Byte) (e : Nat) (hi : Instr.input i ≠ some .byte) :
    State.ending { s with byteLen := n, byteBuf := b, byteEpoch := e } i = s.ending i := by
  cases i <;> simp [Instr.input] at hi <;> rfl

theorem ending_bitBuf (s : State) (n : Word) (b : Buf Bool) (e : Nat) (hi : Instr.input i ≠ some .bit) :
    State.ending { s with bitLen := n, bitBuf := b, bitEpoch := e } i = s.ending i := by
  cases i <;> simp [Instr.input] at hi <;> rfl

theorem ending_sampBuf (s : State) (n : Word) (b : Buf F32) (e : Nat) (hi : Instr.input i ≠ some .samp) :
    State.ending { s with sampLen := n, sampBuf := b, sampEpoch := e } i = s.ending i := by
  cases i <;> simp [Instr.input] at hi <;> rfl

/-! ## Draws -/

theorem noised_of_units_eq_zero (E : Env R D) (h : F32.units s.level = 0) : s.noised E = id := by
  funext w
  simp [State.noised, addNoise, h]

/-- Without noise the sequence of draws has no influence (47_noise_and_system.md R173). -/
theorem plan_draws (m n : Nat) (h : i ∉ [Instr.fskMod, .qpskMod, .tbMod, .noiseAdd] ∨ F32.units s.level = 0) :
    Instr.plan (Config.env m) s i = Instr.plan (Config.env n) s i := by
  rcases h with h | h
  · cases i <;> simp at h <;> rfl
  · cases i with
    | fskMod | qpskMod | tbMod =>
      simp only [Instr.plan, modPlan, State.planWave, noised_of_units_eq_zero _ h]
      rfl
    | noiseAdd =>
      simp only [Instr.plan, noiseAddPlan, noised_of_units_eq_zero _ h]
    | _ => rfl

theorem ending_draws (n : Nat) (h : i ∉ [Instr.fskMod, .qpskMod, .tbMod, .noiseAdd] ∨ F32.units s.level = 0) :
    State.ending { s with draws := n } i = s.ending i := by
  have hplan : Instr.plan (Config.env n) { s with draws := n } i = Instr.plan s.env s i := by
    refine Eq.trans ?_ (plan_draws n s.draws h)
    cases i <;> rfl
  exact ending_congr rfl rfl hplan

/-! ## One ending, put on two states -/

variable {e : Ending}

/-- A part is written, or keeps its old value. -/
theorem getD_eq_ite {α : Type} {x : Option α} {P : Prop} [Decidable P] (h : x.isSome ↔ P) (a b : α) :
    x.getD b = if P then x.getD a else b := by
  cases x with
  | none => exact (if_neg fun hp => nomatch h.2 hp).symm
  | some v => exact (if_pos (h.1 rfl)).symm

theorem EndsIn.on_power (he : EndsIn i s e) (x : F32) :
    e.on { s with power := x } =
      if i = .goertzel ∧ (e.on s).status.err = false then e.on s else { e.on s with power := x } := by
  show { e.on s with power := e.plan.power.getD x } = _
  rw [getD_eq_ite he.power_iff s.power x]
  split <;> rfl

theorem EndsIn.on_syncOff (he : EndsIn i s e) (x : Word) :
    e.on { s with syncOff := x } =
      if i ∈ [.fskSync, .qpskSync, .tbSync] ∧ (e.on s).status.err = false then e.on s
      else { e.on s with syncOff := x } := by
  have hw := he.sync_iff
  rw [← Option.isSome_map (f := Prod.fst)] at hw
  show { e.on s with syncOff := (e.plan.sync.map Prod.fst).getD x } = _
  rw [getD_eq_ite hw s.syncOff x]
  split <;> rfl

theorem EndsIn.on_syncCnt (he : EndsIn i s e) (x : Word) :
    e.on { s with syncCnt := x } =
      if i ∈ [.fskSync, .qpskSync, .tbSync] ∧ (e.on s).status.err = false then e.on s
      else { e.on s with syncCnt := x } := by
  have hw := he.sync_iff
  rw [← Option.isSome_map (f := Prod.snd)] at hw
  show { e.on s with syncCnt := (e.plan.sync.map Prod.snd).getD x } = _
  rw [getD_eq_ite hw s.syncCnt x]
  split <;> rfl

/-- `ERRINFO` is rewritten by `CLRERR` and by a fault. -/
theorem EndsIn.on_errInfo (he : EndsIn i s e) (x : Word) :
    e.on { s with errInfo := x } =
      if i = .clrErr ∨ (s.status.err = false ∧ (e.on s).status.err = true) then e.on s
      else { e.on s with errInfo := x } := by
  cases he with
  | refused hi herr => exact (if_neg (by simp [hi, herr])).symm
  | raised _ herr _ => exact (if_pos (.inr ⟨herr, rfl⟩)).symm
  | cleared hi => exact (if_pos (.inl hi)).symm
  | completed hi herr _ =>
    have hdone : ¬ (i = .clrErr ∨ (s.status.err = false ∧ s.status.err = true)) := by simp [hi]
    exact (if_neg hdone).symm

theorem Ending.err_status (e : Ending) {t u : Status} (h : u.err = t.err) : (e.status u).err = (e.status t).err := by
  cases e with
  | refused | completed _ => exact h
  | raised _ | cleared => rfl

theorem toNat_ofNat_le (n : Nat) : (BitVec.ofNat 32 n).toNat ≤ n := by
  rw [BitVec.toNat_ofNat]
  exact Nat.mod_le _ _

/-- A sequence that was written reads back the same, whatever the buffer, its length and its epoch were before. -/
theorem map_read_after {α : Type} {out : Option (List α)} (h : out.isSome) (b c : Buf α) (m n k l : Word)
    (f g : Nat → α) :
    (List.range (lengthAfter k out).toNat).map ((b.after m out).read f) =
      (List.range (lengthAfter l out).toNat).map ((c.after n out).read g) := by
  obtain ⟨v, rfl⟩ := Option.isSome_iff_exists.1 h
  refine List.map_congr_left fun j hj => ?_
  have hjv : j < v.length := Nat.lt_of_lt_of_le (List.mem_range.1 hj) (toNat_ofNat_le v.length)
  exact (Buf.read_put_lt f b _ v j hjv).trans (Buf.read_put_lt g c _ v j hjv).symm

theorem length_after_eq {α : Type} {out : Option (List α)} (h : out.isSome) (m n : Word) :
    lengthAfter m out = lengthAfter n out := by
  obtain ⟨v, rfl⟩ := Option.isSome_iff_exists.1 h
  rfl

theorem Ending.on_byteBuf (h : e.plan.bytes = none) (n : Word) (b : Buf Byte) (ep : Nat) :
    e.on { s with byteLen := n, byteBuf := b, byteEpoch := ep } =
      { e.on s with byteLen := n, byteBuf := b, byteEpoch := ep } := by
  simp only [Ending.on, Plan.write, h]
  rfl

theorem Ending.on_bitBuf (h : e.plan.bits = none) (n : Word) (b : Buf Bool) (ep : Nat) :
    e.on { s with bitLen := n, bitBuf := b, bitEpoch := ep } =
      { e.on s with bitLen := n, bitBuf := b, bitEpoch := ep } := by
  simp only [Ending.on, Plan.write, h]
  rfl

theorem Ending.on_sampBuf (h : e.plan.samples = none) (n : Word) (b : Buf F32) (ep : Nat) :
    e.on { s with sampLen := n, sampBuf := b, sampEpoch := ep } =
      { e.on s with sampLen := n, sampBuf := b, sampEpoch := ep } := by
  simp only [Ending.on, Plan.write, h]
  rfl

/-- Without noise no draw is taken. -/
theorem EndsIn.taken_eq_zero (he : EndsIn i s e)
    (h : i ∉ [Instr.fskMod, .qpskMod, .tbMod, .noiseAdd] ∨ F32.units s.level = 0) : e.plan.taken = 0 := by
  rw [he.taken_eq]
  rcases h with h | h
  · have ho : Instr.output i ≠ some .samp := by cases i <;> simp [Instr.output] at h ⊢
    rw [eq_none_of_iff he.samples_iff ho]
    exact drawsTaken_zero s.level
  · simp [drawsTaken, h]

/-- What a command does to a state of which it decides what it decides of another. -/
theorem exec_of_ending_eq {u t : State} (hi : i ≠ .reset) (he : u.ending i = s.ending i) (ht : (s.ending i).on u = t) :
    exec i u = .next t := by
  rw [exec_eq_ending hi, he, ht]

/-- Settles O60: in each case the command ends as before, and the ending is put on the changed state. -/
theorem unreadStateDoesNotMatter : Obligations.UnreadStateDoesNotMatter := by
  unfold Obligations.UnreadStateDoesNotMatter
  intro i s t x hi ht
  rw [exec_eq_ending hi] at ht
  cases ht
  have he := endsIn_ending s i
  refine ⟨fun h => exec_of_ending_eq hi (ending_offset s x h) rfl,
    fun h => exec_of_ending_eq hi (ending_freq s x h) rfl,
    fun h => exec_of_ending_eq hi (ending_level s x h) rfl,
    fun h => exec_of_ending_eq hi (ending_pad s x h) rfl,
    fun h => exec_of_ending_eq hi (ending_symRate s x h) rfl,
    fun h hg => exec_of_ending_eq hi (ending_rate s x h hg) rfl,
    fun h => ⟨exec_of_ending_eq hi (ending_fskTones s x s.fskF1 h) rfl,
      exec_of_ending_eq hi (ending_fskTones s s.fskF0 x h) rfl⟩,
    fun h => ?qpsk,
    fun h => exec_of_ending_eq hi (ending_cfg h) rfl,
    exec_of_ending_eq hi (ending_results s i x s.syncOff s.syncCnt s.errInfo s.host s.reply) (he.on_power x),
    exec_of_ending_eq hi (ending_results s i s.power x s.syncCnt s.errInfo s.host s.reply) (he.on_syncOff x),
    exec_of_ending_eq hi (ending_results s i s.power s.syncOff x s.errInfo s.host s.reply) (he.on_syncCnt x),
    exec_of_ending_eq hi (ending_results s i s.power s.syncOff s.syncCnt x s.host s.reply) (he.on_errInfo x),
    fun u hu => ⟨(s.ending i).status u, (s.ending i).err_status hu, exec_of_ending_eq hi (ending_status s i hu) rfl⟩,
    fun b ep hin => ⟨fun ho => ?_, fun ho => ?bytes⟩,
    fun b ep hin => ⟨fun ho => ?_, fun ho => ?bits⟩,
    fun b ep hin => ⟨fun ho => ?_, fun ho => ?samples⟩,
    fun h => exec_of_ending_eq hi (ending_results s i s.power s.syncOff s.syncCnt s.errInfo h x) rfl,
    fun h n => exec_of_ending_eq hi (ending_draws n h) ?draws⟩
  case qpsk =>
    have tones (b m0 m1 m2 m3 : F32) := exec_of_ending_eq hi (ending_qpskTones s b m0 m1 m2 m3 h) rfl
    exact ⟨tones x s.qpskMult0 s.qpskMult1 s.qpskMult2 s.qpskMult3,
      tones s.qpskBase x s.qpskMult1 s.qpskMult2 s.qpskMult3, tones s.qpskBase s.qpskMult0 x s.qpskMult2 s.qpskMult3,
      tones s.qpskBase s.qpskMult0 s.qpskMult1 x s.qpskMult3, tones s.qpskBase s.qpskMult0 s.qpskMult1 s.qpskMult2 x⟩
  case bytes =>
    refine ⟨_, _, _, exec_of_ending_eq hi (ending_byteBuf s x b ep hin) rfl, fun hok => ?_⟩
    have hw := he.bytes_iff.2 ⟨ho, hok⟩
    exact ⟨length_after_eq hw _ _, map_read_after hw _ _ _ _ _ _ _ _⟩
  case bits =>
    refine ⟨_, _, _, exec_of_ending_eq hi (ending_bitBuf s x b ep hin) rfl, fun hok => ?_⟩
    have hw := he.bits_iff.2 ⟨ho, hok⟩
    exact ⟨length_after_eq hw _ _, map_read_after hw _ _ _ _ _ _ _ _⟩
  case samples =>
    refine ⟨_, _, _, exec_of_ending_eq hi (ending_sampBuf s x b ep hin) rfl, fun hok => ?_⟩
    have hw := he.samples_iff.2 ⟨ho, hok⟩
    exact ⟨length_after_eq hw _ _, map_read_after hw _ _ _ _ _ _ _ _⟩
  case draws =>
    show { (s.ending i).on s with draws := n + (s.ending i).plan.taken } = _
    rw [he.taken_eq_zero h, Nat.add_zero]
  · exact exec_of_ending_eq hi (ending_byteBuf s x b ep hin) (Ending.on_byteBuf (eq_none_of_iff he.bytes_iff ho) x b ep)
  · exact exec_of_ending_eq hi (ending_bitBuf s x b ep hin) (Ending.on_bitBuf (eq_none_of_iff he.bits_iff ho) x b ep)
  · exact exec_of_ending_eq hi (ending_sampBuf s x b ep hin)
      (Ending.on_sampBuf (eq_none_of_iff he.samples_iff ho) x b ep)

end Sys2Proof.Machine
end


section
/-!
SUPPORT. The reference arithmetic is a `NUMERICS` (10_state.md R29), and equal powers give 0 bits (10_state.md R26;
44_modulators.md R134, R137).
-/

namespace Sys2Proof.Machine

/-! ## Rounding on the real numbers (45_goertzel.md R151) -/

/-- A natural nearer than an exact half is the nearest whatever the tie rule. -/
theorem roundsTo_of_lt {x : ℝ} {k : ℕ} (tie : RoundTie) (h : |x - k| < 1 / 2) : RoundsTo tie x k :=
  ⟨h.le, fun he => absurd he h.ne⟩

theorem roundReal_nearest (tie : RoundTie) {x : ℝ} (hx : 0 ≤ x) : RoundsTo tie x (roundReal tie x) := by
  have hlow : (⌊x⌋₊ : ℝ) ≤ x := Nat.floor_le hx
  have hhigh : x < ⌊x⌋₊ + 1 := Nat.lt_floor_add_one x
  unfold roundReal
  generalize ⌊x⌋₊ = k at hlow hhigh ⊢
  split
  · exact roundsTo_of_lt tie (abs_lt.2 ⟨by linarith, by linarith⟩)
  split
  · refine roundsTo_of_lt tie (abs_lt.2 ⟨?_, ?_⟩) <;> push_cast <;> linarith
  have hdown : |x - (k : ℝ)| = 1 / 2 := by
    rw [abs_of_nonneg (by linarith)]
    linarith
  have hup : |x - ((k + 1 : ℕ) : ℝ)| = 1 / 2 := by
    push_cast
    rw [abs_of_nonpos (by linarith)]
    linarith
  cases tie with
  | halfEven =>
    dsimp only
    split
    · exact ⟨hdown.le, fun _ => Nat.even_iff.2 ‹_›⟩
    · exact ⟨hup.le, fun _ => Nat.even_add_one.2 (by rwa [Nat.even_iff])⟩
  | halfAway => exact ⟨hup.le, fun _ => by push_cast; linarith⟩

theorem F32.rat_one : F32.rat F32.one = 1 := by
  have hunits : F32.units F32.one = 2 ^ 149 := by decide
  rw [F32.rat, hunits, Rat.mkRat_eq_div]
  norm_num

/-- Settles O48: of the laws, only the rounding and the range of a sine are more than a definition. -/
theorem referenceArithmeticIsLawful : Obligations.ReferenceArithmeticIsLawful := by
  unfold Obligations.ReferenceArithmeticIsLawful
  intro toF32 _
  refine ⟨⟨fun _ _ => rfl, fun a b => decide_eq_true_iff, fun _ => rfl, fun tie r h => roundReal_nearest tie h,
    Real.sqrt_nonneg, fun r => ?_⟩, ⟨fun _ _ => rfl, fun _ _ => rfl, fun a b => decide_eq_true_iff, fun _ => rfl⟩⟩
  show -1 ≤ (F32.rat F32.one : ℝ) * Real.sin (2 * Real.pi * r) ∧
    (F32.rat F32.one : ℝ) * Real.sin (2 * Real.pi * r) ≤ 1
  rw [F32.rat_one, Rat.cast_one, one_mul]
  exact ⟨Real.neg_one_le_sin _, Real.sin_le_one _⟩

/-! ## Ties of the detector -/

section
variable {R : Type} {A : Arith R}

/-- A power is not strictly greater than itself, so with equal tones a window gives 0. -/
theorem fskBit_of_eq_tones {real : R → ℝ} {store : ℝ → F32} (hA : A.Lawful real store) {s : State}
    (h : s.fskF0 = s.fskF1) (w : List F32) : fskBit s A w = false := by
  have htones : s.fskFreq A true = s.fskFreq A false := congrArg A.val h.symm
  unfold fskBit
  rw [htones, Bool.eq_false_iff]
  exact fun hgt => lt_irrefl _ ((hA.gt_iff _ _).1 hgt)

theorem length_fskDem_le (s : State) (wv : List F32) (off : Nat) : (fskDem s A wv off).length ≤ wv.length := by
  rw [fskDem, List.length_map, length_windows]
  unfold nWin
  split
  · exact (Nat.div_le_self _ _).trans (Nat.sub_le _ _)
  · exact Nat.zero_le _

/-- A key that beats no other leaves the winner at 0. -/
theorem argMax_of_no_gt {p : Nat → R} (h : ∀ j k, A.gt (p j) (p k) = false) : argMax A p = 0 := by
  simp [argMax, h]

end

/-- Below the new length, what a command stored is read. -/
theorem State.bitAt_putBits_mem (s : State) {v : Bits} {j : Nat} (hj : j < (s.putBits v).bitLen.toNat) :
    (s.putBits v).bitAt j ∈ v := by
  have hjv : j < v.length := Nat.lt_of_lt_of_le hj (toNat_ofNat_le v.length)
  have hread : (s.putBits v).bitAt j = v[j] := Buf.read_put_lt _ s.bitBuf _ v j hjv
  rw [hread]
  exact List.getElem_mem hjv

/-- `FSK.DEM` with everything usable stores its bits (44_modulators.md R134). -/
theorem exec_fskDem_of_ready {s : State} (h : s.DemReady .fsk) (hcap : s.sampLen.toNat ≤ s.impl.capBits) :
    exec .fskDem s = .next ((s.issued.putBits (fskDem s Config.numerics.arith s.samples s.offset.toNat)).complete
      (Flags.written (fskDem s Config.numerics.arith s.samples s.offset.toNat))) := by
  obtain ⟨⟨herr, -⟩, hfits, hpos, hrates, hscheme, hsamples⟩ := h
  have hlen : (fskDem s Config.numerics.arith s.samples s.offset.toNat).length ≤ s.issued.impl.capBits :=
    (length_fskDem_le _ _ _).trans (by simpa using hcap)
  show Host.Outcome.next (s.run (some .samp) (demBody s.env .fsk (encode .fskDem))) = _
  rw [State.run_of_fits _ herr hfits]
  unfold demBody
  have hconfig : s.SchemeConfigOk .fsk .demodulate := ⟨hrates, hscheme⟩
  rw [State.issued_checkScheme, State.checkScheme_of_ok _ hconfig,
    State.issued_waveform, State.waveform_of_ok hsamples hpos]
  exact congrArg (fun x => Host.Outcome.next (s.issued.settle x)) (State.outBits_of_le _ hlen)

/-! ## Silence over the real numbers -/

/-- The recurrence stays at (0, 0) on a window of zeros. -/
theorem goertzelPair_of_zeros (toF32 : ℝ → F32) (coeff : ℝ) {xs : List ℝ} (h : ∀ x ∈ xs, x = 0) :
    goertzelPair (realArith toF32) coeff xs = (0, 0) := by
  have hstart : ((realArith toF32).ofNat 0, (realArith toF32).ofNat 0) = ((0 : ℝ), (0 : ℝ)) := by simp [realArith]
  unfold goertzelPair
  rw [hstart]
  induction xs with
  | nil => rfl
  | cons x rest ih =>
    have hstep : goertzelStep (realArith toF32) coeff (0, 0) x = (0, 0) := by
      simp [goertzelStep, realArith, h x List.mem_cons_self]
    rw [List.foldl_cons, hstep]
    exact ih fun y hy => h y (List.mem_cons_of_mem _ hy)

theorem F32.rat_of_units_eq_zero {x : F32} (h : F32.units x = 0) : F32.rat x = 0 := by
  rw [F32.rat, h, Rat.zero_mkRat]

/-- The detector finds no power in silence. -/
theorem detect_of_silence (toF32 : ℝ → F32) (tie : RoundTie) {w : List F32} (h : ∀ x ∈ w, F32.units x = 0) (f : ℝ)
    (fs : Nat) : detect (realArith toF32) tie w f fs = 0 := by
  have hzeros : ∀ y ∈ w.map (realArith toF32).val, y = 0 := by
    intro y hy
    obtain ⟨x, hx, rfl⟩ := List.mem_map.1 hy
    show (F32.rat x : ℝ) = 0
    rw [F32.rat_of_units_eq_zero (h x hx), Rat.cast_zero]
  show goertzelResult _ _ (goertzelPair _ _ _) = 0
  rw [goertzelPair_of_zeros toF32 _ hzeros]
  simp [goertzelResult, realArith]

/-- Every sample of a window is one of the waveform. -/
theorem mem_of_mem_windows {sps : Nat} {wv w : List F32} {off : Nat} (hw : w ∈ windows sps wv off) {x : F32}
    (hx : x ∈ w) : x ∈ wv := by
  obtain ⟨j, -, rfl⟩ := List.mem_map.1 hw
  exact List.mem_of_mem_drop (List.mem_of_mem_take hx)

theorem fskBit_of_silence (toF32 : ℝ → F32) (s : State) {w : List F32} (h : ∀ x ∈ w, F32.units x = 0) :
    fskBit s (realArith toF32) w = false := by
  unfold fskBit
  rw [detect_of_silence toF32 _ h, detect_of_silence toF32 _ h]
  simp [realArith]

theorem qpskPair_of_silence (toF32 : ℝ → F32) (s : State) {w : List F32} (h : ∀ x ∈ w, F32.units x = 0) :
    qpskPair s (realArith toF32) w = [false, false] := by
  unfold qpskPair
  rw [argMax_of_no_gt fun j k => by
    rw [detect_of_silence toF32 _ h, detect_of_silence toF32 _ h]
    simp [realArith]]
  rfl

/-- Settles O49: a tie of powers gives 0, and equal tones and silence are ties. -/
theorem equalPowersGiveZeroBits : Obligations.EqualPowersGiveZeroBits := by
  unfold Obligations.EqualPowersGiveZeroBits
  refine ⟨fun s hready htones hcap => ?_, fun toF32 s wv off hzero => ⟨fun b hb => ?_, fun b hb => ?_⟩⟩
  · obtain ⟨store, -, hA, -⟩ := Config.numerics.lawful
    refine ⟨_, exec_fskDem_of_ready hready hcap, rfl, fun j hj => ?_⟩
    obtain ⟨w, -, hw⟩ := List.mem_map.1 (State.bitAt_putBits_mem s.issued hj)
    exact hw.symm.trans (fskBit_of_eq_tones hA htones w)
  · obtain ⟨w, hw, rfl⟩ := List.mem_map.1 hb
    exact fskBit_of_silence toF32 s fun x hx => hzero x (mem_of_mem_windows hw hx)
  · obtain ⟨w, hw, hbw⟩ := List.mem_flatMap.1 hb
    rw [qpskPair_of_silence toF32 s fun x hx => hzero x (mem_of_mem_windows hw hx)] at hbw
    simpa using hbw

end Sys2Proof.Machine
end

section
/-!
SUPPORT. The waveforms a command makes are waveforms of valid samples (20_memory.md R54; 44_modulators.md R133, R138,
R141; 47_noise_and_system.md R170, R174), whatever the arithmetic and the codec answer, and what is written is what is
read afterwards.
-/

namespace Sys2Proof.Machine

/-- Every element is a valid sample (R54). -/
def AllSamples (w : List F32) : Prop := ∀ x ∈ w, F32.isSample x = true

theorem AllSamples.append {v w : List F32} (hv : AllSamples v) (hw : AllSamples w) : AllSamples (v ++ w) :=
  fun x hx => (List.mem_append.1 hx).elim (hv x) (hw x)

theorem allSamples_replicate_zero (n : Nat) : AllSamples (List.replicate n F32.zero) := by
  intro x hx
  rw [List.eq_of_mem_replicate hx]
  decide

/-- Padding is silence (44_modulators.md R138). -/
theorem AllSamples.padded (s : State) {w : List F32} (hw : AllSamples w) : AllSamples (s.padded w) :=
  ((allSamples_replicate_zero _).append hw).append (allSamples_replicate_zero _)

/-! ## Under the laws of `NUMERICS` -/

section
variable {R D : Type} {real : R → ℝ} {drawReal : D → ℝ} {store : ℝ → F32}

/-- A tone stays in the range of a sine (44_modulators.md R133). -/
theorem allSamples_tone {A : Arith R} (hs : StoreLaws store) (hA : A.Lawful real store) (f : R) (fs n : Nat) :
    AllSamples (tone A f fs n) := by
  intro x hx
  obtain ⟨j, -, rfl⟩ := List.mem_map.1 hx
  obtain ⟨hlow, hhigh⟩ := hA.tone_range (A.div (A.mul f (A.ofNat j)) (A.ofNat fs))
  rw [toneSample, hA.toF32_store]
  exact hs.sample _ hlow hhigh

theorem allSamples_fskWave {A : Arith R} (hs : StoreLaws store) (hA : A.Lawful real store) (s : State) (b : Bits) :
    AllSamples (fskWave s A b) := by
  intro x hx
  obtain ⟨bit, -, hx⟩ := List.mem_flatMap.1 hx
  exact allSamples_tone hs hA _ _ _ x hx

theorem allSamples_qpskWave {A : Arith R} (hs : StoreLaws store) (hA : A.Lawful real store) (s : State) (b : Bits) :
    AllSamples (qpskWave s A b) := by
  intro x hx
  obtain ⟨pair, -, hx⟩ := List.mem_flatMap.1 hx
  exact allSamples_tone hs hA _ _ _ x hx

theorem F32.rat_negOne : F32.rat F32.negOne = -1 := by
  have hunits : F32.units F32.negOne = -2 ^ 149 := by decide
  rw [F32.rat, hunits, Rat.mkRat_eq_div]
  norm_num

/-- A noisy sample is the stored value of the sum clamped to [-1, 1] (47_noise_and_system.md R170). -/
theorem noisySample_eq_store {X : RealOps D} (hX : X.Lawful drawReal store) (gauss : Bool) (level x : F32) (d : D) :
    noisySample X gauss level x d = store (max (-1) (min 1 (drawReal (X.add (X.val x) (drawIn X gauss level d))))) := by
  have hlow : drawReal (X.val F32.negOne) = -1 := by
    rw [hX.val_real _ (by decide), F32.rat_negOne]
    norm_num
  have hhigh : drawReal (X.val F32.one) = 1 := by
    rw [hX.val_real _ (by decide), F32.rat_one]
    norm_num
  have hle : drawReal (X.val F32.negOne) ≤ drawReal (X.val F32.one) := by
    rw [hlow, hhigh]
    norm_num
  rw [noisySample, hX.toF32_store, real_clampTo hX _ _ _ hle, hlow, hhigh]

theorem isSample_noisySample {X : RealOps D} (hs : StoreLaws store) (hX : X.Lawful drawReal store) (gauss : Bool)
    (level x : F32) (d : D) : F32.isSample (noisySample X gauss level x d) = true := by
  rw [noisySample_eq_store hX]
  exact hs.sample _ (le_max_left _ _) (max_le (by norm_num) (min_le_left _ _))

theorem allSamples_noisySamples {X : RealOps D} (hs : StoreLaws store) (hX : X.Lawful drawReal store) (draw : Nat → D)
    (gauss : Bool) (level : F32) (k : Nat) (w : List F32) : AllSamples (noisySamples X draw gauss level k w) := by
  induction w generalizing k with
  | nil => exact fun x hx => nomatch hx
  | cons y rest ih =>
    intro x hx
    rcases List.mem_cons.1 hx with rfl | hx
    · exact isSample_noisySample hs hX gauss level y (draw k)
    · exact ih (k + 1) x hx

/-- Noise makes no invalid sample: at level 0 the waveform is unchanged, else every sample is a clamped one
(47_noise_and_system.md R170, R173). -/
theorem AllSamples.noised {E : Env R D} (hs : StoreLaws store) (hX : E.reals.Lawful drawReal store) (s : State)
    {w : List F32} (hw : AllSamples w) : AllSamples (s.noised E w) := by
  unfold State.noised addNoise
  split
  · exact hw
  · exact allSamples_noisySamples hs hX _ _ _ _ _

/-! ## The plans -/

/-- The samples a plan writes, if it does, are valid. -/
def Plan.SamplesValid (p : Plan) : Prop := ∀ w, p.samples = some w → AllSamples w

theorem answers_allSamples_checkedSamples (s : State) : Answers AllSamples s.checkedSamples := by
  unfold State.checkedSamples
  cases h : firstBadSample 0 s.samples with
  | some i => exact (by decide : ErrCode.sample ≠ .none)
  | none => exact (firstBadSample_eq_none 0 s.samples).1 h

/-- Whatever the codec answers, only valid samples come through (44_modulators.md R141). -/
theorem answers_allSamples_validWave (w : Word) (x : Option (List F32)) : Answers AllSamples (validWave w x) := by
  cases x with
  | none => exact (by decide : ErrCode.external ≠ .none)
  | some l =>
    unfold validWave
    dsimp only
    split
    · exact List.all_eq_true.1 ‹_›
    · exact (by decide : ErrCode.external ≠ .none)

variable {E : Env R D}

theorem answers_samplesValid_planWave (hs : StoreLaws store) (hX : E.reals.Lawful drawReal store) (s : State) (n : Nat)
    {w : List F32} (hw : AllSamples w) : Answers Plan.SamplesValid (s.planWave E n w) := by
  refine (answers_checkCapacity s .samp (2 * s.pad.toNat + n)).bind fun _ _ v hv => ?_
  cases hv
  exact (hw.padded s).noised hs hX s

theorem answers_samplesValid_modPlan (hs : StoreLaws store) (hA : E.arith.Lawful real store)
    (hX : E.reals.Lawful drawReal store) (sch : Scheme) (w : Word) (s : State) :
    Answers Plan.SamplesValid (modPlan E sch w s) := by
  refine (answers_checkScheme s _ _ _).after fun _ => (answers_need _ _ (by decide)).after fun _ => ?_
  cases sch with
  | fsk => exact answers_samplesValid_planWave hs hX s _ (allSamples_fskWave hs hA s s.bits)
  | qpsk =>
    exact (answers_need _ _ (by decide)).after fun _ =>
      answers_samplesValid_planWave hs hX s _ (allSamples_qpskWave hs hA s s.bits)
  | tb => exact (answers_allSamples_validWave w _).bind fun _ hl => answers_samplesValid_planWave hs hX s _ hl

theorem answers_samplesValid_noiseAddPlan (hs : StoreLaws store) (hX : E.reals.Lawful drawReal store) (s : State) :
    Answers Plan.SamplesValid (noiseAddPlan E s) := by
  refine (answers_checkLevel s).after fun _ => (answers_allSamples_checkedSamples s).bind fun w hw v hv => ?_
  cases hv
  exact hw.noised hs hX s

/-- A command that writes `SAMPBUF` is an encoder or `NOISE.ADD`. -/
theorem answers_samplesValid_plan (hs : StoreLaws store) (hA : E.arith.Lawful real store)
    (hX : E.reals.Lawful drawReal store) {i : Instr} (hi : Instr.output i = some .samp) (s : State) :
    Answers Plan.SamplesValid (Instr.plan E s i) := by
  cases i with
  | fskMod | qpskMod | tbMod => exact answers_samplesValid_modPlan hs hA hX _ _ s
  | noiseAdd => exact answers_samplesValid_noiseAddPlan hs hX s
  | _ => cases hi

end

/-! ## From the plan to the state -/

/-- What holds of writing nothing, and of every plan the command decides, holds of its ending's plan. -/
theorem plan_ending_of_answers {P : Plan → Prop} {s : State} {i : Instr} (h0 : P {})
    (h : Answers P (Instr.plan s.env s i)) : P (s.ending i).plan := by
  unfold State.ending
  split
  · exact h0
  split
  · exact h0
  have hall := (answers_checkInput s i).bind fun _ _ => h
  cases hx : s.checkInput i >>= fun _ => Instr.plan s.env s i with
  | error r => exact h0
  | ok p =>
    rw [hx] at hall
    exact hall

/-- Below the new length, the samples a plan writes are read. -/
theorem Ending.sampleAt_on_mem {e : Ending} {s : State} {w : List F32} (hw : e.plan.samples = some w) {k : Nat}
    (hk : k < (e.on s).sampLen.toNat) : (e.on s).sampleAt k ∈ w := by
  have hlen : (e.on s).sampLen = BitVec.ofNat 32 w.length := by simp [Ending.on, Plan.write, hw, lengthAfter]
  have hkw : k < w.length := by
    rw [hlen] at hk
    exact Nat.lt_of_lt_of_le hk (toNat_ofNat_le w.length)
  have hbuf : (e.on s).sampBuf = s.sampBuf.put s.sampLen.toNat w := by simp [Ending.on, Plan.write, hw, Buf.after]
  rw [State.sampleAt, hbuf, Buf.read_put_lt _ _ _ w k hkw]
  exact List.getElem_mem hkw

/-- Settles O54: every plan's waveform is valid, and a command that writes `SAMPBUF` and raises nothing wrote one. -/
theorem producedSamplesAreValid : Obligations.ProducedSamplesAreValid := by
  unfold Obligations.ProducedSamplesAreValid
  intro i s t hi _ ht herr k hk
  have hr : i ≠ .reset := by rintro rfl; cases hi
  rw [exec_eq_ending hr] at ht
  cases ht
  obtain ⟨store, hs, hA, hX⟩ := Config.numerics.lawful
  obtain ⟨w, hw⟩ := Option.isSome_iff_exists.1 ((endsIn_ending s i).samples_iff.2 ⟨hi, herr⟩)
  have hvalid : (s.ending i).plan.SamplesValid :=
    plan_ending_of_answers (fun w h => nomatch h) (answers_samplesValid_plan hs hA hX hi s)
  exact hvalid w hw _ (Ending.sampleAt_on_mem hw hk)

end Sys2Proof.Machine
end

section
/-!
SUPPORT. Data that cannot be used (20_memory.md R54; 60_exceptions.md R185, R193): with the registers in order, the next
thing a command's plan looks at is its input.
-/

namespace Sys2Proof.Machine

variable {R D : Type}

/-! ## The first invalid sample -/

theorem State.checkedSamples_of_bad {s : State} {k : Nat} (hk : k < s.sampLen.toNat)
    (hbad : F32.isSample (s.sampleAt k) = false) (hfirst : ∀ j < k, F32.isSample (s.sampleAt j) = true) :
    s.checkedSamples = .error (Raise.of .sample k) := by
  have hlen : k < s.samples.length := by rwa [State.length_samples]
  have hget : ∀ j (hj : j < s.samples.length), s.samples[j] = s.sampleAt j := fun j hj => by simp [State.samples]
  have hsplit : s.samples = s.samples.take k ++ s.samples[k] :: s.samples.drop (k + 1) := by
    rw [List.cons_getElem_drop_succ, List.take_append_drop]
  have hbefore : ∀ x ∈ s.samples.take k, F32.isSample x = true := by
    intro x hx
    obtain ⟨j, hj, rfl⟩ := List.mem_take_iff_getElem.1 hx
    rw [hget]
    exact hfirst j (Nat.lt_of_lt_of_le hj (Nat.min_le_left _ _))
  have hfound : firstBadSample 0 s.samples = some k := by
    rw [hsplit, firstBadSample_append 0 _ _ _ hbefore (by rwa [hget]), List.length_take_of_le hlen.le, Nat.zero_add]
  rw [State.checkedSamples, hfound]

theorem State.waveform_of_bad {s : State} {k : Nat} (hk : k < s.sampLen.toNat)
    (hbad : F32.isSample (s.sampleAt k) = false) (hfirst : ∀ j < k, F32.isSample (s.sampleAt j) = true) :
    s.waveform = .error (Raise.of .sample k) := by
  rw [State.waveform, State.checkedSamples_of_bad hk hbad hfirst]

/-! ## A command whose plan raises -/

/-- The fault a command's plan raises is the one it ends in, when no other stands before it. -/
theorem exec_of_plan_error {i : Instr} {s : State} {code : ErrCode} {info : Nat} (hr : i ≠ .reset) (hc : i ≠ .clrErr)
    (herr : s.status.err = false) (hin : ∀ b, Instr.input i = some b → s.Fits b)
    (hplan : Instr.plan s.env s i = .error (Raise.of code info)) : exec i s = .next (s.faulted code info) := by
  have hcheck : s.checkInput i = .ok () := by
    unfold State.checkInput
    cases h : Instr.input i with
    | none => rfl
    | some b => exact State.checkCapacity_of_le (hin b h)
  rw [exec_eq_ending hr, State.ending, if_neg hc, herr, hcheck, hplan]
  rfl

/-- A command that receives by a scheme reads `SAMPBUF`, and after the registers it checks the waveform. -/
theorem plan_of_receiver (E : Env R D) {i : Instr} {sch : Scheme} {role : Role} (s : State)
    (hi : Instr.scheme i = some (sch, role)) (hrole : role ≠ .modulate) :
    Instr.input i = some .samp ∧
      ∃ f : List F32 → Except Raise Plan,
        Instr.plan E s i = s.checkScheme sch role (encode i) >>= fun _ => s.waveform >>= f := by
  cases i with
  | fskDem | qpskDem | tbDem | fskDecode | qpskDecode | tbDecode | fskSync | qpskSync | tbSync =>
    cases hi
    exact ⟨rfl, _, rfl⟩
  | fskMod | qpskMod | tbMod =>
    cases hi
    exact absurd rfl hrole
  | _ => cases hi

/-- An encoder reads `BITBUF`, and after the registers it wants a bit. -/
theorem plan_of_modulator (E : Env R D) {i : Instr} {sch : Scheme} (s : State)
    (hi : Instr.scheme i = some (sch, .modulate)) :
    Instr.input i = some .bit ∧
      ∃ f : Unit → Except Raise Plan,
        Instr.plan E s i =
          s.checkScheme sch .modulate (encode i) >>= fun _ => need (!s.bits.isEmpty) .emptyInput 0x64 >>= f := by
  cases i with
  | fskMod | qpskMod | tbMod =>
    cases hi
    exact ⟨rfl, _, rfl⟩
  | _ => cases hi

/-- A receiving command ends in the fault of its waveform. -/
theorem exec_of_waveform_error {i : Instr} {sch : Scheme} {role : Role} {s : State} {code : ErrCode} {info : Nat}
    (hi : Instr.scheme i = some (sch, role)) (hrole : role ≠ .modulate) (herr : s.status.err = false)
    (hconfig : s.SchemeConfigOk sch role) (hfits : s.Fits .samp) (hwave : s.waveform = .error (Raise.of code info)) :
    exec i s = .next (s.faulted code info) := by
  obtain ⟨hin, f, hplan⟩ := plan_of_receiver s.env s hi hrole
  refine exec_of_plan_error (by rintro rfl; cases hi) (by rintro rfl; cases hi) herr (fun b hb => ?_) ?_
  · cases hin.symm.trans hb
    exact hfits
  · rw [hplan, State.checkScheme_of_ok _ hconfig, hwave]
    rfl

/-- An encoder with no bits ends in `ERR_EMPTY_INPUT` (44_modulators.md R132). -/
theorem exec_of_no_bits {i : Instr} {sch : Scheme} {s : State} (hi : Instr.scheme i = some (sch, .modulate))
    (herr : s.status.err = false) (hconfig : s.SchemeConfigOk sch .modulate) (hempty : s.bitLen.toNat = 0) :
    exec i s = .next (s.faulted .emptyInput 0x64) := by
  obtain ⟨hin, f, hplan⟩ := plan_of_modulator s.env s hi
  have hbits : s.bits = [] := List.eq_nil_of_length_eq_zero (s.length_bits.trans hempty)
  refine exec_of_plan_error (by rintro rfl; cases hi) (by rintro rfl; cases hi) herr (fun b hb => ?_) ?_
  · cases hin.symm.trans hb
    exact hempty.le.trans (Nat.zero_le _)
  · rw [hplan, State.checkScheme_of_ok _ hconfig, hbits]
    rfl

/-- `NOISE.ADD` ends in the fault of its samples once `LEVEL` is usable (47_noise_and_system.md R171). -/
theorem exec_noiseAdd_of_samples_error {s : State} {code : ErrCode} {info : Nat} (herr : s.status.err = false)
    (hfits : s.Fits .samp) (hlevel : s.LevelOk) (hsamples : s.checkedSamples = .error (Raise.of code info)) :
    exec .noiseAdd s = .next (s.faulted code info) := by
  refine exec_of_plan_error (by decide) (by decide) herr (fun b hb => ?_) ?_
  · cases hb
    exact hfits
  · show noiseAddPlan s.env s = _
    rw [noiseAddPlan, State.checkLevel, hlevel, hsamples]
    rfl

/-- `GOERTZEL` ends in the fault of its waveform once `RATE` and `FREQ` are usable (45_goertzel.md R155). -/
theorem exec_goertzel_of_waveform_error {s : State} {code : ErrCode} {info : Nat} (herr : s.status.err = false)
    (hfits : s.Fits .samp) (hrate : 0 < s.rate.toNat) (hfreq : F32.isNonneg s.freq = true)
    (hwave : s.waveform = .error (Raise.of code info)) : exec .goertzel s = .next (s.faulted code info) := by
  refine exec_of_plan_error (by decide) (by decide) herr (fun b hb => ?_) ?_
  · cases hb
    exact hfits
  · show goertzelPlan s.env s = _
    rw [goertzelPlan, State.checkRate, State.checkFreq, decide_eq_true hrate, hfreq, hwave]
    rfl

/-- Settles O43: behind usable registers stands the check of the waveform, or of the bits. -/
theorem unusableDataFaults : Obligations.UnusableDataFaults := by
  unfold Obligations.UnusableDataFaults
  refine ⟨fun i sch role s hi hready hconfig => ⟨?_, ?_, ?_⟩, ?_⟩
  · intro hrole hfits k hk hbad hfirst
    exact exec_of_waveform_error hi hrole hready.1 hconfig hfits (State.waveform_of_bad hk hbad hfirst)
  · intro hrole hempty
    exact exec_of_waveform_error hi hrole hready.1 hconfig (hempty.le.trans (Nat.zero_le _))
      (State.waveform_of_empty hempty)
  · rintro rfl hempty
    exact exec_of_no_bits hi hready.1 hconfig hempty
  · intro s hready hfits k hk hbad hfirst
    exact ⟨fun hlevel =>
        exec_noiseAdd_of_samples_error hready.1 hfits hlevel (State.checkedSamples_of_bad hk hbad hfirst),
      fun hrate hfreq =>
        exec_goertzel_of_waveform_error hready.1 hfits hrate hfreq (State.waveform_of_bad hk hbad hfirst)⟩

end Sys2Proof.Machine
end

section
/-!
SUPPORT. The host's accesses (20_memory.md R41, R45, R46): what each does once it is admitted, which offsets the
registers stand at, and which of the bus's offsets is which register or element.
-/

namespace Sys2Proof.Machine

/-! ## What an access does -/

/-- What an access does that is aligned and made while no command executes. -/
def State.admitted (s : State) : HostAccess → Host.Outcome State Fault Refusal
  | .writeReg off w => s.hostWriteReg off w
  | .readReg off => .next (s.answer (s.readReg off))
  | .writeByte i v => .next (s.writeByte i v)
  | .writeBit i v => .next (s.writeBit i v)
  | .writeSample i v => .next (s.writeSample i v)
  | .readBuf b i => .next (s.answer (s.readElem b i))
  | .busWrite addr w => s.hostBusWrite addr w
  | .busRead addr => .next (s.answer (s.busValue addr))
  | .hardReset => .next s.restart

theorem State.access_of_wf {s : State} {a : HostAccess} (hb : s.status.busy = false) (hwf : a.wf = true) :
    s.access a = s.admitted a := by
  unfold State.access
  rw [hwf, hb]
  cases a <;> rfl

/-- A misaligned access is refused (93_implementation_defined.md U2). -/
theorem State.access_of_not_wf {s : State} {a : HostAccess} (hwf : a.wf = false) :
    s.access a = .refused (.misalignedAccess (HostAccess.addr a)) := by
  simp [State.access, hwf]

/-- The step that makes an access put at the front of the list. -/
theorem step_host_cons (s : State) (a : HostAccess) : step { s with host := a :: s.host } = s.access a := rfl

theorem step_of_wf {s : State} {a : HostAccess} (hb : s.status.busy = false) (hwf : a.wf = true) :
    step { s with host := a :: s.host } = s.admitted a :=
  (step_host_cons s a).trans (State.access_of_wf hb hwf)

theorem step_of_not_wf (s : State) {a : HostAccess} (hwf : a.wf = false) :
    step { s with host := a :: s.host } = .refused (.misalignedAccess (HostAccess.addr a)) :=
  (step_host_cons s a).trans (State.access_of_not_wf hwf)

/-- Two accesses that are admitted and do the same. -/
theorem step_eq_of_admitted {s : State} {a b : HostAccess} (hb : s.status.busy = false) (hwf : a.wf = true)
    (hwf' : b.wf = true) (h : s.admitted a = s.admitted b) :
    step { s with host := a :: s.host } = step { s with host := b :: s.host } := by
  rw [step_of_wf hb hwf, step_of_wf hb hwf', h]

/-- Two accesses that name one offset, are admitted together and then do the same. -/
theorem step_eq_of_same_offset {s : State} {a b : HostAccess} (hb : s.status.busy = false) (hwf : a.wf = b.wf)
    (haddr : HostAccess.addr a = HostAccess.addr b) (h : s.admitted a = s.admitted b) :
    step { s with host := a :: s.host } = step { s with host := b :: s.host } := by
  cases hwf' : b.wf with
  | false => rw [step_of_not_wf s (hwf.trans hwf'), step_of_not_wf s hwf', haddr]
  | true => exact step_eq_of_admitted hb (hwf.trans hwf') hwf' h

/-- A register access is well formed at a multiple of 4 and beyond the registers (20_memory.md R49). -/
theorem readReg_wf_iff (off : Nat) : (HostAccess.readReg off).wf = true ↔ 0x6C ≤ off ∨ off % 4 = 0 := by
  simp only [HostAccess.wf, Bool.or_eq_true, decide_eq_true_eq]
  exact Iff.rfl

theorem busRead_wf_iff (addr : Nat) :
    (HostAccess.busRead addr).wf = true ↔ (0x6C ≤ addr ∧ (addr < 0x1000000 ∨ 0x2000000 ≤ addr)) ∨ addr % 4 = 0 := by
  simp only [HostAccess.wf, Bool.or_eq_true, Bool.and_eq_true, decide_eq_true_eq]
  exact Iff.rfl

/-- A write is well formed where a read is. -/
theorem writeReg_wf (off : Nat) (w : Word) : (HostAccess.writeReg off w).wf = (HostAccess.readReg off).wf := rfl

theorem busWrite_wf (addr : Nat) (w : Word) : (HostAccess.busWrite addr w).wf = (HostAccess.busRead addr).wf := rfl

/-- Below the end of the registers a bus access is well formed when the register access is. -/
theorem busRead_wf_of_lt {o : Nat} (h : o < 0x6C) : (HostAccess.busRead o).wf = (HostAccess.readReg o).wf := by
  rw [Bool.eq_iff_iff, busRead_wf_iff, readReg_wf_iff]
  omega

/-! ## The registers (10_state.md R10) -/

/-- The offsets at which a register stands that a read shows. -/
def readableOffsets : List Nat :=
  [0x04, 0x08, 0x0C, 0x10, 0x14, 0x18, 0x1C, 0x20, 0x24, 0x28, 0x2C, 0x30, 0x34, 0x40, 0x44, 0x48, 0x4C, 0x50, 0x54,
    0x58, 0x60, 0x64, 0x68]

/-- The offsets of the read/write registers. -/
def writableOffsets : List Nat :=
  [0x10, 0x14, 0x18, 0x1C, 0x20, 0x24, 0x28, 0x2C, 0x30, 0x34, 0x40, 0x44, 0x48, 0x4C, 0x60, 0x64, 0x68]

/-- `CMD` and an unassigned offset read 0 (20_memory.md R45). -/
theorem State.readReg_of_not_mem (s : State) {o : Nat} (h : o ∉ readableOffsets) : s.readReg o = 0 := by
  unfold State.readReg
  split
  case h_24 => rfl
  all_goals exact absurd (by decide) h

/-- A read-only or unassigned offset takes nothing (20_memory.md R45). -/
theorem State.writeReg_of_not_mem (s : State) {off : Nat} (w : Word) (h : off ∉ writableOffsets) :
    s.writeReg off w = s := by
  unfold State.writeReg
  split
  case h_18 => rfl
  all_goals exact absurd (by decide) h

/-- A read/write register reads as what was written to it, `CFG` through its mask (10_state.md R24). -/
theorem State.readReg_writeReg_same (s : State) {off : Nat} (w : Word) (h : off ∈ writableOffsets) :
    (s.writeReg off w).readReg off = if off = 0x10 then w &&& 0x3FF else w := by
  have hmask : w &&& cfgMask &&& cfgMask = w &&& 0x3FF := by
    rw [BitVec.and_assoc, BitVec.and_self]
    rfl
  have hall : writableOffsets.map (fun o => (s.writeReg o w).readReg o) =
      writableOffsets.map fun o => if o = 0x10 then w &&& cfgMask &&& cfgMask else w := rfl
  rw [← hmask]
  exact List.map_inj_left.1 hall off h

/-- A register write leaves every other register as it reads. -/
theorem State.readReg_writeReg_of_ne (s : State) {o off : Nat} (w : Word) (h : o ≠ off) :
    (s.writeReg off w).readReg o = s.readReg o := by
  by_cases ho : o ∈ readableOffsets
  · have hothers : (readableOffsets.filter (· != off)).map (s.writeReg off w).readReg =
        (readableOffsets.filter (· != off)).map s.readReg := by
      unfold State.writeReg
      split <;> rfl
    exact List.map_inj_left.1 hothers o (List.mem_filter.2 ⟨ho, bne_iff_ne.2 h⟩)
  · rw [State.readReg_of_not_mem _ ho, State.readReg_of_not_mem _ ho]

theorem State.readReg_writeReg (s : State) (off : Nat) (w : Word) (o : Nat) :
    (s.writeReg off w).readReg o =
      if o = off ∧ off ∈ writableOffsets then (if off = 0x10 then w &&& 0x3FF else w) else s.readReg o := by
  by_cases hoff : off ∈ writableOffsets
  · by_cases ho : o = off
    · rw [if_pos ⟨ho, hoff⟩, ho, State.readReg_writeReg_same s w hoff]
    · rw [if_neg fun hc => ho hc.1, State.readReg_writeReg_of_ne s w ho]
  · rw [if_neg fun hc => hoff hc.2, State.writeReg_of_not_mem s w hoff]

/-- A register write leaves the buffers, and what is outside the block. -/
theorem State.writeReg_frame (s : State) (off : Nat) (w : Word) :
    (s.writeReg off w).byteBuf = s.byteBuf ∧ (s.writeReg off w).bitBuf = s.bitBuf ∧
      (s.writeReg off w).sampBuf = s.sampBuf ∧ (s.writeReg off w).toOutside = s.toOutside := by
  unfold State.writeReg
  split <;> exact ⟨rfl, rfl, rfl, rfl⟩

/-- The bus reaches the registers at their offsets (20_memory.md R41). -/
theorem State.admitted_busRead_of_lt (s : State) {o : Nat} (h : o < 0x6C) :
    s.admitted (.busRead o) = s.admitted (.readReg o) := by
  have hvalue : s.busValue o = s.readReg o := if_pos h
  exact congrArg (fun x => Host.Outcome.next (s.answer x)) hvalue

theorem State.hostBusWrite_of_lt (s : State) {o : Nat} (w : Word) (h : o < 0x6C) :
    s.hostBusWrite o w = s.hostWriteReg o w := if_pos h

/-- Settles O6: an admitted register access is `readReg` or `writeReg`, and a bus access below the registers' end is
the register access. -/
theorem hostRegisterAccess : Obligations.HostRegisterAccess := by
  unfold Obligations.HostRegisterAccess
  intro s off w hb hoff
  have hwf : (HostAccess.readReg off).wf = true := (readReg_wf_iff off).2 hoff.symm
  refine ⟨fun hne => ?_, step_of_wf hb hwf, fun hun => s.readReg_of_not_mem ?_, fun o ho hmis => ?_, fun o ho =>
    ⟨step_eq_of_same_offset hb (busRead_wf_of_lt ho) rfl (s.admitted_busRead_of_lt ho),
      step_eq_of_same_offset hb (busRead_wf_of_lt ho) rfl (s.hostBusWrite_of_lt w ho)⟩⟩
  · obtain ⟨hbyte, hbit, hsamp, hout⟩ := s.writeReg_frame off w
    refine ⟨s.writeReg off w, (step_of_wf (a := .writeReg off w) hb hwf).trans (if_neg hne),
      s.readReg_writeReg off w, hbyte, hbit, hsamp, congrArg Outside.impl hout, congrArg Outside.host hout,
      congrArg Outside.reply hout⟩
  · simp only [List.mem_cons, List.not_mem_nil, or_false] at hun
    simp only [readableOffsets, List.mem_cons, List.not_mem_nil, or_false]
    omega
  · have hnot : (HostAccess.readReg o).wf = false :=
      Bool.eq_false_iff.2 fun h => ((readReg_wf_iff o).1 h).elim (Nat.not_le.2 ho) hmis
    exact ⟨step_of_not_wf s hnot, step_of_not_wf s hnot⟩

/-! ## The buffers (20_memory.md R46) -/

/-- A buffer of capacity `cap` after the host's write of an element. -/
def Buf.store {α : Type} (b : Buf α) (cap i : Nat) (v : α) : Buf α := if i < cap then b.write i v else b

theorem Buf.read_store {α : Type} (free : Nat → α) (b : Buf α) (cap i : Nat) (v : α) (j : Nat) :
    (b.store cap i v).read free j = if j = i ∧ i < cap then v else b.read free j := by
  unfold Buf.store
  split
  · rw [Buf.read_write]
    simp [*, eq_comm]
  · simp [*]

theorem State.writeByte_eq_store (s : State) (i : Nat) (v : Byte) :
    s.writeByte i v = { s with byteBuf := s.byteBuf.store s.impl.capBytes i v } := by
  unfold State.writeByte Buf.store
  show (if i < s.impl.capBytes then _ else _) = _
  split <;> rfl

theorem State.writeBit_eq_store (s : State) (i : Nat) (v : Bool) :
    s.writeBit i v = { s with bitBuf := s.bitBuf.store s.impl.capBits i v } := by
  unfold State.writeBit Buf.store
  show (if i < s.impl.capBits then _ else _) = _
  split <;> rfl

theorem State.writeSample_eq_store (s : State) (i : Nat) (v : F32) :
    s.writeSample i v = { s with sampBuf := s.sampBuf.store s.impl.capSamples i v } := by
  unfold State.writeSample Buf.store
  show (if i < s.impl.capSamples then _ else _) = _
  split <;> rfl

/-- What a host's buffer read answers. -/
theorem State.readElem_eq (s : State) (b : BufId) (i : Nat) :
    s.readElem b i = if i < s.capacity b then
        (match b with
        | .byte => (s.byteAt i).setWidth 32
        | .bit => if s.bitAt i then 1 else 0
        | .samp => s.sampleAt i)
      else 0 := by
  unfold State.readElem
  cases b with
  | byte | samp => rfl
  | bit =>
    dsimp only
    cases s.bitAt i <;> rfl

/-! ## The windows of the bus (20_memory.md R41) -/

section
variable (s : State) {i : Nat} (w : Word)

theorem State.hostBusWrite_byteWindow (h : i < 0x100000) :
    s.hostBusWrite (0x100000 + i) w = .next (s.writeByte i (w.setWidth 8)) := by
  unfold State.hostBusWrite regSpaceEnd
  rw [if_neg (by omega), if_pos (by omega), Nat.add_sub_cancel_left]

theorem State.hostBusWrite_bitWindow (h : i < 0x100000) :
    s.hostBusWrite (0x200000 + i) w = .next (s.writeBit i (w.getLsbD 0)) := by
  unfold State.hostBusWrite regSpaceEnd
  rw [if_neg (by omega), if_neg (by omega), if_pos (by omega), Nat.add_sub_cancel_left]

theorem State.hostBusWrite_sampleWindow (h : i < 0x400000) :
    s.hostBusWrite (0x1000000 + 4 * i) w = .next (s.writeSample i w) := by
  unfold State.hostBusWrite regSpaceEnd
  rw [if_neg (by omega), if_neg (by omega), if_neg (by omega), if_pos (by omega), Nat.add_sub_cancel_left,
    Nat.mul_div_cancel_left i (by decide)]

theorem State.busValue_byteWindow (h : i < 0x100000) : s.busValue (0x100000 + i) = s.readElem .byte i := by
  unfold State.busValue regSpaceEnd
  rw [if_neg (by omega), if_pos (by omega), Nat.add_sub_cancel_left]

theorem State.busValue_bitWindow (h : i < 0x100000) : s.busValue (0x200000 + i) = s.readElem .bit i := by
  unfold State.busValue regSpaceEnd
  rw [if_neg (by omega), if_neg (by omega), if_pos (by omega), Nat.add_sub_cancel_left]

theorem State.busValue_sampleWindow (h : i < 0x400000) : s.busValue (0x1000000 + 4 * i) = s.readElem .samp i := by
  unfold State.busValue regSpaceEnd
  rw [if_neg (by omega), if_neg (by omega), if_neg (by omega), if_pos (by omega), Nat.add_sub_cancel_left,
    Nat.mul_div_cancel_left i (by decide)]

end

/-- The offsets beyond the registers and outside the windows. -/
def UnassignedOffset (a : Nat) : Prop :=
  (0x6C ≤ a ∧ a < 0x100000) ∨ (0x300000 ≤ a ∧ a < 0x1000000) ∨ 0x2000000 ≤ a

theorem State.busValue_unassigned (s : State) {a : Nat} (h : UnassignedOffset a) : s.busValue a = 0 := by
  unfold UnassignedOffset at h
  unfold State.busValue regSpaceEnd
  rw [if_neg (by omega), if_neg (by omega), if_neg (by omega), if_neg (by omega)]

theorem State.hostBusWrite_unassigned (s : State) {a : Nat} (w : Word) (h : UnassignedOffset a) :
    s.hostBusWrite a w = .next s := by
  unfold UnassignedOffset at h
  unfold State.hostBusWrite regSpaceEnd
  rw [if_neg (by omega), if_neg (by omega), if_neg (by omega), if_neg (by omega)]

/-- A bus read answers what its window's buffer read does. -/
theorem State.admitted_busRead_of_eq {s : State} {addr : Nat} {b : BufId} {i : Nat}
    (h : s.busValue addr = s.readElem b i) : s.admitted (.busRead addr) = s.admitted (.readBuf b i) :=
  congrArg (fun x => Host.Outcome.next (s.answer x)) h

/-- Settles O8: an admitted write is a store into one buffer, and each offset of the bus is one element or none. -/
theorem hostBufferAccess : Obligations.HostBufferAccess := by
  unfold Obligations.HostBufferAccess
  intro s hb
  have hsmall : ∀ i, i % 0x100000 < 0x100000 := fun i => Nat.mod_lt i (by decide)
  have hlarge : ∀ i, i % 0x400000 < 0x400000 := fun i => Nat.mod_lt i (by decide)
  refine ⟨fun i v => ?_, fun i v => ?_, fun i v => ?_, fun b i => ?_, fun i hi => ⟨?_, ?_⟩, fun i hi => ?_,
    fun a w ha hun => ?_⟩
  · refine ⟨s.writeByte i v, step_of_wf hb rfl, ?_, ?_⟩
    · refine step_eq_of_admitted hb ((busRead_wf_iff _).2 (.inl (by omega))) rfl ?_
      refine (State.hostBusWrite_byteWindow s _ (hsmall i)).trans ?_
      rw [BitVec.setWidth_setWidth_of_le _ (by decide), BitVec.setWidth_eq]
      rfl
    · rw [State.writeByte_eq_store]
      exact ⟨Buf.read_store _ _ _ _ _, rfl⟩
  · refine ⟨s.writeBit i v, step_of_wf hb rfl, fun w hw => ?_, ?_⟩
    · refine step_eq_of_admitted hb ((busRead_wf_iff _).2 (.inl (by omega))) rfl ?_
      refine (State.hostBusWrite_bitWindow s w (hsmall i)).trans ?_
      rw [hw]
      rfl
    · rw [State.writeBit_eq_store]
      exact ⟨Buf.read_store _ _ _ _ _, rfl⟩
  · refine ⟨s.writeSample i v, step_of_wf hb rfl, ?_, ?_⟩
    · exact step_eq_of_admitted hb ((busRead_wf_iff _).2 (.inr (by omega))) rfl
        (State.hostBusWrite_sampleWindow s v (hlarge i))
    · rw [State.writeSample_eq_store]
      exact ⟨Buf.read_store _ _ _ _ _, rfl⟩
  · exact ⟨s.answer (s.readElem b i), step_of_wf hb rfl, rfl, s.readElem_eq b i⟩
  · exact step_eq_of_admitted hb ((busRead_wf_iff _).2 (.inl (by omega))) rfl
      (State.admitted_busRead_of_eq (s.busValue_byteWindow hi))
  · exact step_eq_of_admitted hb ((busRead_wf_iff _).2 (.inl (by omega))) rfl
      (State.admitted_busRead_of_eq (s.busValue_bitWindow hi))
  · exact step_eq_of_admitted hb ((busRead_wf_iff _).2 (.inr (by omega))) rfl
      (State.admitted_busRead_of_eq (s.busValue_sampleWindow hi))
  · have hwf : (HostAccess.busRead a).wf = true := (busRead_wf_iff a).2 (.inr ha)
    refine ⟨(step_of_wf hb hwf).trans ?_,
      (step_of_wf (a := .busWrite a w) hb hwf).trans (s.hostBusWrite_unassigned w hun)⟩
    show Host.Outcome.next (s.answer (s.busValue a)) = _
    rw [s.busValue_unassigned hun]
    rfl

end Sys2Proof.Machine
end

section
/-!
SUPPORT. The encoding: a command word and its fields (30_encoding.md R60, R62, R64, R65), and the layout of a coded
Hamming block (R68; 41_hamming.md R91 to R93).
-/

namespace Sys2Proof.Machine

/-! ## A word and its fields -/

/-- A word is its three fields, most significant first (R60). -/
theorem append_fieldsOf (w : Word) :
    (fieldsOf w).reserved ++ ((fieldsOf w).arg ++ (fieldsOf w).opcode) = w := by
  show w.extractLsb' 16 16 ++ (w.extractLsb' 8 8 ++ w.extractLsb' 0 8) = w
  rw [BitVec.extractLsb'_append_extractLsb'_eq_extractLsb' (by decide),
    BitVec.extractLsb'_append_extractLsb'_eq_extractLsb' (by decide)]
  exact BitVec.extractLsb'_eq_self

theorem fieldsOf_append (r : BitVec 16) (a o : BitVec 8) :
    fieldsOf (r ++ (a ++ o)) = { opcode := o, arg := a, reserved := r } := by
  rw [fieldsOf, CmdFields.mk.injEq]
  refine ⟨?_, ?_, BitVec.extractLsb'_append_eq_left⟩
  · rw [BitVec.extractLsb'_append_eq_of_add_le (by decide)]
    exact BitVec.extractLsb'_append_eq_right
  · rw [BitVec.extractLsb'_append_eq_of_add_le (by decide)]
    exact BitVec.extractLsb'_append_eq_left

/-- A word is a command's word exactly when its fields are the command's. -/
theorem eq_encode_iff_fieldsOf (w : Word) (i : Instr) :
    w = encode i ↔ fieldsOf w = { opcode := i.opcode, arg := i.arg, reserved := 0 } := by
  constructor
  · rintro rfl
    exact fieldsOf_append 0 i.arg i.opcode
  · intro h
    rw [← append_fieldsOf w, h]
    rfl

/-! ## The decoder -/

/-- The rows of R62: a pair of fields decodes to a command exactly when it is that command's pair. -/
theorem decodeFields_eq_ok_iff (opcode arg : Nat) (i : Instr) :
    decodeFields opcode arg = .ok i ↔ opcode = i.opcode.toNat ∧ arg = i.arg.toNat := by
  constructor
  · intro h
    unfold decodeFields at h
    split at h <;> cases h <;> exact ⟨rfl, rfl⟩
  · rintro ⟨rfl, rfl⟩
    cases i <;> rfl

theorem CmdFields.reservedOk_iff (f : CmdFields) : f.reservedOk = true ↔ f.reserved = 0 := beq_iff_eq

theorem decode_eq_ok_iff_fieldsOf (w : Word) (i : Instr) :
    decode w = .ok i ↔ fieldsOf w = { opcode := i.opcode, arg := i.arg, reserved := 0 } := by
  rw [decode, CmdFields.mk.injEq]
  by_cases h : (fieldsOf w).reserved = 0
  · rw [if_pos ((CmdFields.reservedOk_iff _).2 h), decodeFields_eq_ok_iff, BitVec.toNat_inj, BitVec.toNat_inj]
    simp only [h, and_true]
  · rw [if_neg (mt (CmdFields.reservedOk_iff _).1 h)]
    simp only [h, and_false, reduceCtorEq]

/-- Settles O2: a word decodes to a command, and is the command's word, exactly when its fields are the command's. -/
theorem decodeExactlyInvertsEncode : Obligations.DecodeExactlyInvertsEncode := by
  unfold Obligations.DecodeExactlyInvertsEncode
  intro w i
  exact (decode_eq_ok_iff_fieldsOf w i).trans (eq_encode_iff_fieldsOf w i).symm

/-- A word that is no command is refused. -/
theorem decode_eq_error_of_ne_encode {w : Word} (h : ∀ i, w ≠ encode i) : ∃ e, decode w = .error e := by
  cases hd : decode w with
  | error e => exact ⟨e, rfl⟩
  | ok i => exact absurd ((decodeExactlyInvertsEncode w i).1 hd) (h i)

/-- Settles O1: each word of the table is its command's word. -/
theorem tableWordsDecode : Obligations.TableWordsDecode := by
  unfold Obligations.TableWordsDecode
  intro p
  rw [decodeExactlyInvertsEncode p.1 p.2]
  revert p
  decide

/-! ## An illegal word -/

theorem State.issue_of_ne_encode (s : State) {w : Word} (h : ∀ i, w ≠ encode i) : s.issue w = .next (s.illegal w) := by
  obtain ⟨e, he⟩ := decode_eq_error_of_ne_encode h
  rw [State.issue, he]

/-- With no fault pending an illegal word raises `ERR_ILLEGAL_CMD` on the state it was issued in (R64). -/
theorem State.illegal_eq_faulted {s : State} (herr : s.status.err = false) (w : Word) :
    s.illegal w = s.faulted .illegalCmd w.toNat := by
  have hw : ({ code := .illegalCmd, info := w } : Raise) = Raise.of .illegalCmd w.toNat := by
    rw [Raise.of, BitVec.ofNat_toNat, BitVec.setWidth_eq]
  rw [State.illegal, herr, if_neg (by decide), hw, State.issued_raise_of]

/-- Settles O3: the write to `CMD` is admitted, and the word decodes to no command. -/
theorem illegalWordFaults : Obligations.IllegalWordFaults := by
  unfold Obligations.IllegalWordFaults
  intro w s hw herr hb
  have hstep : step { s with host := .writeReg 0 w :: s.host } = s.issue w := step_of_wf hb rfl
  rw [hstep, State.issue_of_ne_encode s hw, State.illegal_eq_faulted herr]

/-! ## A coded Hamming block -/

theorem hamBLen_four : hamBLen 4 = 7 := by decide

theorem hamBLen_eight : hamBLen 8 = 12 := by decide

theorem placeData_four (d1 d2 d3 d4 : Bool) :
    placeData 7 [d1, d2, d3, d4] = [false, false, d1, false, d2, d3, d4] := rfl

theorem placeData_eight (d1 d2 d3 d4 d5 d6 d7 d8 : Bool) :
    placeData 12 [d1, d2, d3, d4, d5, d6, d7, d8] =
      [false, false, d1, false, d2, d3, d4, false, d5, d6, d7, d8] := rfl

theorem covered_four :
    covered 7 1 = [3, 5, 7] ∧ covered 7 2 = [3, 6, 7] ∧ covered 7 4 = [5, 6, 7] := by decide

theorem covered_eight :
    covered 12 1 = [3, 5, 7, 9, 11] ∧ covered 12 2 = [3, 6, 7, 10, 11] ∧ covered 12 4 = [5, 6, 7, 12] ∧
      covered 12 8 = [9, 10, 11, 12] := by decide

/-- Settles O16: a parity position holds the exclusive or of the positions it covers, another its data bit. -/
theorem hammingBlockLayout : Obligations.HammingBlockLayout := by
  unfold Obligations.HammingBlockLayout
  refine ⟨⟨hamBLen_four, by decide, by decide⟩, ⟨hamBLen_eight, by decide, by decide⟩, ?_, ?_⟩
  · intro d1 d2 d3 d4
    obtain ⟨h1, h2, h4⟩ := covered_four
    simp [hamEncBlock, hamBLen_four, placeData_four, positions, isPow2, par, h1, h2, h4, bitAt1, List.range_succ]
  · intro d1 d2 d3 d4 d5 d6 d7 d8
    obtain ⟨h1, h2, h4, h8⟩ := covered_eight
    simp [hamEncBlock, hamBLen_eight, placeData_eight, positions, isPow2, par, h1, h2, h4, h8, bitAt1,
      List.range_succ]

end Sys2Proof.Machine
end

section
/-!
SUPPORT. A command whose plan is to store into `BYTEBUF` or `BITBUF`: what it leaves when the result fits, and the fault
when it does not (20_memory.md R44; 10_state.md R21).
-/

namespace Sys2Proof.Machine

variable {i : Instr} {s : State}

/-! ## What a buffer holds, element by element -/

@[simp] theorem State.getElem_bytes (s : State) (j : Nat) (h : j < s.bytes.length) : s.bytes[j] = s.byteAt j := by
  simp [State.bytes]

@[simp] theorem State.getElem_bits (s : State) (k : Nat) (h : k < s.bits.length) : s.bits[k] = s.bitAt k := by
  simp [State.bits]

theorem State.getElem?_bytes {s : State} {j : Nat} (h : j < s.byteLen.toNat) : s.bytes[j]? = some (s.byteAt j) := by
  rw [List.getElem?_eq_getElem (s.length_bytes.symm ▸ h), State.getElem_bytes]

theorem State.getElem?_bits {s : State} {k : Nat} (h : k < s.bitLen.toNat) : s.bits[k]? = some (s.bitAt k) := by
  rw [List.getElem?_eq_getElem (s.length_bits.symm ▸ h), State.getElem_bits]

/-- `EMPTY` tells that the sequence has length 0 (10_state.md R20). -/
theorem Flags.written_eq {α : Type} (v : List α) : Flags.written v = { empty := decide (v.length = 0) } := by
  cases v <;> rfl

/-! ## A plan that stores -/

/-- A plan that completes is what is put on the state, when no fault stands before it. -/
theorem exec_of_plan_ok {p : Plan} (hr : i ≠ .reset) (hc : i ≠ .clrErr) (herr : s.status.err = false)
    (hin : ∀ b, Instr.input i = some b → s.Fits b) (hplan : Instr.plan s.env s i = .ok p) :
    exec i s = .next ((Ending.completed p).on s) := by
  have hcheck : s.checkInput i = .ok () := by
    unfold State.checkInput
    cases h : Instr.input i with
    | none => rfl
    | some b => exact State.checkCapacity_of_le (hin b h)
  rw [exec_eq_ending hr, State.ending, if_neg hc, herr, hcheck, hplan]
  rfl

theorem State.planBits_of_le {v : Bits} (f : Flags) (h : v.length ≤ s.impl.capBits) :
    s.planBits v f = .ok { bits := v, flags := f } := by
  rw [State.planBits, State.checkCapacity_of_le (b := .bit) h, ok_bind]

theorem State.planBits_of_lt {v : Bits} (f : Flags) (h : s.impl.capBits < v.length) :
    s.planBits v f = .error (Raise.of .capacity 0x64) := by
  rw [State.planBits, State.checkCapacity_of_lt (b := .bit) h, error_bind]
  rfl

theorem State.planBytes_of_le {v : List Byte} (f : Flags) (h : v.length ≤ s.impl.capBytes) :
    s.planBytes v f = .ok { bytes := v, flags := f } := by
  rw [State.planBytes, State.checkCapacity_of_le (b := .byte) h, ok_bind]

theorem State.planBytes_of_lt {v : List Byte} (f : Flags) (h : s.impl.capBytes < v.length) :
    s.planBytes v f = .error (Raise.of .capacity 0x60) := by
  rw [State.planBytes, State.checkCapacity_of_lt (b := .byte) h, error_bind]
  rfl

/-- Storing bits writes `BITBUF` and `BITLEN` only. -/
theorem writesOnlyBits_completed (s : State) {v : Bits} (f : Flags) (hv : v.length < 2 ^ 32) :
    WritesOnlyBits s ((Ending.completed { bits := v, flags := f }).on s) := by
  obtain ⟨hoperands, hhost⟩ := (Ending.completed { bits := v, flags := f }).sameOperands_on s
  refine ⟨hoperands, Ending.power_on rfl, Ending.sync_on rfl, Ending.bytes_on rfl, Ending.samples_on rfl, hhost,
    Ending.draws_on rfl, fun hle k hk => ?_⟩
  have hlen : ((Ending.completed { bits := v, flags := f }).on s).bitLen.toNat = v.length := toNat_ofNat_of_lt hv
  rw [hlen] at hle hk
  show (s.bitBuf.put s.bitLen.toNat v).read
    (Config.freeBit (epochAfter s.bitEpoch s.bitLen.toNat v.length)) k = s.bitAt k
  rw [epochAfter_of_le hle]
  exact Buf.read_put_ge _ _ _ _ _ hle hk

/-- Storing bytes writes `BYTEBUF` and `BYTELEN` only. -/
theorem writesOnlyBytes_completed (s : State) {v : List Byte} (f : Flags) (hv : v.length < 2 ^ 32) :
    WritesOnlyBytes s ((Ending.completed { bytes := v, flags := f }).on s) := by
  obtain ⟨hoperands, hhost⟩ := (Ending.completed { bytes := v, flags := f }).sameOperands_on s
  refine ⟨hoperands, Ending.power_on rfl, Ending.sync_on rfl, Ending.bits_on rfl, Ending.samples_on rfl, hhost,
    Ending.draws_on rfl, fun hle k hk => ?_⟩
  have hlen : ((Ending.completed { bytes := v, flags := f }).on s).byteLen.toNat = v.length := toNat_ofNat_of_lt hv
  rw [hlen] at hle hk
  show (s.byteBuf.put s.byteLen.toNat v).read
    (Config.freeByte (epochAfter s.byteEpoch s.byteLen.toNat v.length)) k = s.byteAt k
  rw [epochAfter_of_le hle]
  exact Buf.read_put_ge _ _ _ _ _ hle hk

/-- A command whose plan is to store bits stores them if they fit, and raises `ERR_CAPACITY` if not
(20_memory.md R44). -/
theorem exec_of_planBits {v : Bits} {f : Flags} (hr : i ≠ .reset) (hc : i ≠ .clrErr) (hready : s.Ready)
    (hin : ∀ b, Instr.input i = some b → s.Fits b) (hplan : Instr.plan s.env s i = s.planBits v f) :
    (v.length ≤ s.impl.capBits → ∃ t, exec i s = .next t ∧ t.bits = v ∧ Ended s t f ∧ WritesOnlyBits s t) ∧
    (s.impl.capBits < v.length → exec i s = .next (s.faulted .capacity 0x64)) := by
  obtain ⟨herr, hok⟩ := hready
  refine ⟨fun hle => ?_, fun hlt => ?_⟩
  · obtain ⟨-, hcap, -⟩ := Params.ok_bounds hok
    have hv : v.length < 2 ^ 32 := by omega
    exact ⟨_, exec_of_plan_ok hr hc herr hin (hplan.trans (State.planBits_of_le f hle)), s.bits_putBits v hv,
      ⟨rfl, rfl⟩, writesOnlyBits_completed s f hv⟩
  · exact exec_of_plan_error hr hc herr hin (hplan.trans (State.planBits_of_lt f hlt))

/-- A command whose plan is to store bytes stores them if they fit, and raises `ERR_CAPACITY` if not
(20_memory.md R44). -/
theorem exec_of_planBytes {v : List Byte} {f : Flags} (hr : i ≠ .reset) (hc : i ≠ .clrErr) (hready : s.Ready)
    (hin : ∀ b, Instr.input i = some b → s.Fits b) (hplan : Instr.plan s.env s i = s.planBytes v f) :
    (v.length ≤ s.impl.capBytes → ∃ t, exec i s = .next t ∧ t.bytes = v ∧ Ended s t f ∧ WritesOnlyBytes s t) ∧
    (s.impl.capBytes < v.length → exec i s = .next (s.faulted .capacity 0x60)) := by
  obtain ⟨herr, hok⟩ := hready
  refine ⟨fun hle => ?_, fun hlt => ?_⟩
  · obtain ⟨hcap, -, -⟩ := Params.ok_bounds hok
    have hv : v.length < 2 ^ 32 := by omega
    exact ⟨_, exec_of_plan_ok hr hc herr hin (hplan.trans (State.planBytes_of_le f hle)), s.bytes_putBytes v hv,
      ⟨rfl, rfl⟩, writesOnlyBytes_completed s f hv⟩
  · exact exec_of_plan_error hr hc herr hin (hplan.trans (State.planBytes_of_lt f hlt))

end Sys2Proof.Machine
end

section
/-!
SUPPORT. The bit codec (40_bit_codec.md R80 to R83): which bit of which byte each bit of a sequence is, and the three
commands that expand and pack.
-/

namespace Sys2Proof.Machine

/-! ## A byte and its bits -/

@[simp] theorem length_bitsOfByte (x : Byte) : (bitsOfByte x).length = 8 := length_bitsOfNat 8 x.toNat

/-- Bit `i` of the expansion of a byte, counted from the front, is its bit `7 - i` (R80). -/
theorem getElem_bitsOfByte (x : Byte) (i : Nat) (h : i < (bitsOfByte x).length) :
    (bitsOfByte x)[i] = x.getLsbD (7 - i) :=
  getElem_bitsOfNat 8 x.toNat i h

/-- Bit `k` of the number a sequence stands for is its element `k`, counted from the back. -/
theorem testBit_natOfBits_reverse (p : Bits) (k : Nat) : (natOfBits p.reverse).testBit k = p[k]?.getD false := by
  induction p generalizing k with
  | nil => exact Nat.zero_testBit k
  | cons b rest ih =>
    have hcons : natOfBits (b :: rest).reverse = 2 * natOfBits rest.reverse + b.toNat := by
      simp [natOfBits]
    rw [hcons]
    cases k with
    | zero => cases b <;> simp [Nat.testBit_zero, Nat.add_mod]
    | succ k =>
      have hdiv : (2 * natOfBits rest.reverse + b.toNat) / 2 = natOfBits rest.reverse := by
        have hb := b.toNat_le
        omega
      rw [Nat.testBit_succ, hdiv, ih, List.getElem?_cons_succ]

/-- Bit `7 - i` of the byte that eight bits make is their element `i` (R81). -/
theorem getLsbD_ofNat_natOfBits {p : Bits} (hp : p.length = 8) {i : Nat} (hi : i < 8) :
    p[i]? = some ((BitVec.ofNat 8 (natOfBits p)).getLsbD (7 - i)) := by
  have hbit := testBit_natOfBits_reverse p.reverse (7 - i)
  rw [List.reverse_reverse, List.getElem?_reverse (by omega), show p.length - 1 - (7 - i) = i by omega,
    List.getElem?_eq_getElem (by omega), Option.getD_some] at hbit
  rw [BitVec.getLsbD_ofNat, hbit, decide_eq_true (by omega), Bool.true_and, List.getElem?_eq_getElem]

/-- Two bytes with the same bits, most significant first, are equal. -/
theorem byte_eq_of_getLsbD {x y : Byte} (h : ∀ i < 8, x.getLsbD (7 - i) = y.getLsbD (7 - i)) : x = y := by
  refine BitVec.eq_of_getLsbD_eq fun k hk => ?_
  have hbit := h (7 - k) (by omega)
  rwa [Nat.sub_sub_self (by omega)] at hbit

/-! ## Sequences of bytes and of bits -/

@[simp] theorem bytesToBits_nil : bytesToBits [] = [] := rfl

@[simp] theorem bytesToBits_cons (x : Byte) (b : List Byte) :
    bytesToBits (x :: b) = bitsOfByte x ++ bytesToBits b := rfl

@[simp] theorem length_bytesToBits (b : List Byte) : (bytesToBits b).length = 8 * b.length := by
  induction b with
  | nil => rfl
  | cons x rest ih =>
    rw [bytesToBits_cons, List.length_append, length_bitsOfByte, ih, List.length_cons]
    omega

@[simp] theorem length_bitsToBytes (s : Bits) : (bitsToBytes s).length = s.length / 8 := by
  rw [bitsToBytes, List.length_map, length_pieces]

/-- Bit `8j + i` of the expansion is bit `7 - i` of byte `j` (R80). -/
theorem getElem?_bytesToBits (b : List Byte) (j : Nat) {i : Nat} (hi : i < 8) :
    (bytesToBits b)[8 * j + i]? = b[j]?.map fun x => x.getLsbD (7 - i) := by
  induction b generalizing j with
  | nil => rfl
  | cons x rest ih =>
    have hlen := length_bitsOfByte x
    cases j with
    | zero =>
      rw [bytesToBits_cons, List.getElem?_append_left (by omega), Nat.mul_zero, Nat.zero_add,
        List.getElem?_eq_getElem (by omega), getElem_bitsOfByte]
      rfl
    | succ j =>
      rw [bytesToBits_cons, List.getElem?_append_right (by omega), hlen,
        show 8 * (j + 1) + i - 8 = 8 * j + i by omega, ih, List.getElem?_cons_succ]

/-- Bit `7 - i` of packed byte `j` is bit `8j + i` of the sequence (R81). -/
theorem getElem?_of_bitsToBytes (s : Bits) {j i : Nat} (hj : j < (bitsToBytes s).length) (hi : i < 8) :
    s[8 * j + i]? = some ((bitsToBytes s)[j].getLsbD (7 - i)) := by
  have hwhole : 8 * j + 8 ≤ s.length := by
    rw [length_bitsToBytes] at hj
    omega
  have hlen : (slice s (j * 8) ((j + 1) * 8)).length = 8 := by
    rw [length_slice]
    omega
  have hget : (slice s (j * 8) ((j + 1) * 8))[i]? = s[8 * j + i]? := by
    rw [getElem?_slice, if_pos (by omega), Nat.mul_comm j 8]
  simp only [bitsToBytes, List.getElem_map, getElem_pieces]
  rw [← hget, getLsbD_ofNat_natOfBits hlen hi]

theorem bitsToBytes_bytesToBits (b : List Byte) : bitsToBytes (bytesToBits b) = b := by
  have hlen : (bitsToBytes (bytesToBits b)).length = b.length := by
    rw [length_bitsToBytes, length_bytesToBits, Nat.mul_div_cancel_left _ (by decide)]
  refine List.ext_getElem hlen fun j hj hb => byte_eq_of_getLsbD fun i hi => ?_
  have hbit := getElem?_of_bitsToBytes (bytesToBits b) hj hi
  rw [getElem?_bytesToBits b j hi, List.getElem?_eq_getElem hb] at hbit
  exact (Option.some.inj hbit).symm

theorem bytesToBits_bitsToBytes (s : Bits) : bytesToBits (bitsToBytes s) = s.take (8 * (s.length / 8)) := by
  refine List.ext_getElem? fun n => ?_
  have hi : n % 8 < 8 := Nat.mod_lt n (by decide)
  have hlen := length_bitsToBytes s
  rw [← Nat.div_add_mod n 8, getElem?_bytesToBits _ _ hi]
  rcases Nat.lt_or_ge (n / 8) (s.length / 8) with hj | hj
  · have hj' : n / 8 < (bitsToBytes s).length := hlen.symm ▸ hj
    rw [List.getElem?_take_of_lt (by omega), getElem?_of_bitsToBytes s hj' hi, List.getElem?_eq_getElem hj']
    rfl
  · rw [List.getElem?_eq_none (hlen.trans_le hj), List.getElem?_eq_none (by rw [List.length_take]; omega)]
    rfl

/-- Settles O15: bit `8j + i` of a sequence and bit `7 - i` of byte `j` are the same bit, both ways. -/
theorem bitCodecRoundTrip : Obligations.BitCodecRoundTrip := by
  unfold Obligations.BitCodecRoundTrip
  exact ⟨bitsToBytes_bytesToBits, bytesToBits_bitsToBytes⟩

/-! ## The commands -/

/-- When `BITBUF` holds the expansion of what `BYTEBUF` held, bit `8j + i` is bit `7 - i` of byte `j`. -/
theorem bitAt_of_bits_eq {s t : State} (h : t.bits = bytesToBits s.bytes) {j i : Nat} (hj : j < s.byteLen.toNat)
    (hi : i < 8) : t.bitAt (8 * j + i) = (s.byteAt j).getLsbD (7 - i) := by
  have hlen : t.bitLen.toNat = 8 * s.byteLen.toNat := by
    rw [← State.length_bits, h, length_bytesToBits, State.length_bytes]
  have hbit := getElem?_bytesToBits s.bytes j hi
  rw [← h, State.getElem?_bits (by omega), State.getElem?_bytes hj] at hbit
  exact Option.some.inj hbit

/-- When `BYTEBUF` holds the packing of what `BITBUF` held, bit `7 - i` of byte `j` is bit `8j + i`. -/
theorem byteAt_of_bytes_eq {s t : State} (h : t.bytes = bitsToBytes s.bits) {j i : Nat}
    (hj : j < s.bitLen.toNat / 8) (hi : i < 8) : (t.byteAt j).getLsbD (7 - i) = s.bitAt (8 * j + i) := by
  have hlen : (bitsToBytes s.bits).length = s.bitLen.toNat / 8 := by
    rw [length_bitsToBytes, State.length_bits]
  have hbit := getElem?_of_bitsToBytes s.bits (hlen.symm ▸ hj) hi
  rw [State.getElem?_bits (by omega)] at hbit
  simp only [← h, State.getElem_bytes] at hbit
  exact (Option.some.inj hbit).symm

/-- A command that packs `BITBUF` into `BYTEBUF`, whatever it checked before (R81). -/
theorem exec_of_packing_plan {i : Instr} {s : State} (hr : i ≠ .reset) (hc : i ≠ .clrErr) (hready : s.Ready)
    (hin : ∀ b, Instr.input i = some b → s.Fits b) (hplan : Instr.plan s.env s i = bits2BytesPlan s) :
    (s.bitLen.toNat / 8 ≤ s.impl.capBytes → ∃ t, exec i s = .next t ∧
      t.byteLen.toNat = s.bitLen.toNat / 8 ∧
      (∀ j < s.bitLen.toNat / 8, ∀ k < 8, (t.byteAt j).getLsbD (7 - k) = s.bitAt (8 * j + k)) ∧
      Ended s t { empty := decide (s.bitLen.toNat / 8 = 0) } ∧ WritesOnlyBytes s t) ∧
    (s.impl.capBytes < s.bitLen.toNat / 8 → exec i s = .next (s.faulted .capacity 0x60)) := by
  have hlen : (bitsToBytes s.bits).length = s.bitLen.toNat / 8 := by
    rw [length_bitsToBytes, State.length_bits]
  obtain ⟨hfit, hfull⟩ := exec_of_planBytes hr hc hready hin hplan
  rw [Flags.written_eq, hlen] at hfit
  rw [hlen] at hfull
  refine ⟨fun hcap => ?_, hfull⟩
  obtain ⟨t, ht, hbytes, hended, hframe⟩ := hfit hcap
  refine ⟨t, ht, ?_, fun j hj k hk => byteAt_of_bytes_eq hbytes hj hk, hended, hframe⟩
  rw [← hlen, ← hbytes, State.length_bytes]

/-- Settles O12: the plan stores the expansion of `BYTEBUF`. -/
theorem bytesToBitsResult : Obligations.BytesToBitsResult := by
  unfold Obligations.BytesToBitsResult
  intro s hready hfits
  have hin : ∀ b, Instr.input .bytes2Bits = some b → s.Fits b := fun b hb => Option.some.inj hb ▸ hfits
  have hlen : (bytesToBits s.bytes).length = 8 * s.byteLen.toNat := by
    rw [length_bytesToBits, State.length_bytes]
  obtain ⟨hfit, hfull⟩ := exec_of_planBits (i := .bytes2Bits) (by decide) (by decide) hready hin rfl
  rw [Flags.written_eq, hlen, State.length_bytes] at hfit
  rw [hlen] at hfull
  refine ⟨fun hcap => ?_, hfull⟩
  obtain ⟨t, ht, hbits, hended, hframe⟩ := hfit hcap
  refine ⟨t, ht, ?_, fun j hj k hk => bitAt_of_bits_eq hbits hj hk, hended, hframe⟩
  rw [← hlen, ← hbits, State.length_bits]

/-- Settles O13: the plan stores the packing of `BITBUF`. -/
theorem bitsToBytesTruncates : Obligations.BitsToBytesTruncates := by
  unfold Obligations.BitsToBytesTruncates
  intro s hready hfits
  exact exec_of_packing_plan (by decide) (by decide) hready (fun b hb => Option.some.inj hb ▸ hfits) rfl

/-- Settles O14: behind the check of the length the plan is that of `BITS2BYTES.T`. -/
theorem bitsToBytesStrict : Obligations.BitsToBytesStrict := by
  unfold Obligations.BitsToBytesStrict
  intro s hready hfits
  have hin : ∀ b, Instr.input .bits2BytesS = some b → s.Fits b := fun b hb => Option.some.inj hb ▸ hfits
  have hplan : Instr.plan s.env s .bits2BytesS =
      need (decide (s.bitLen.toNat % 8 = 0)) .length s.bitLen.toNat >>= fun _ => bits2BytesPlan s := by
    rw [← State.length_bits]
    rfl
  by_cases hmod : s.bitLen.toNat % 8 = 0
  · rw [decide_eq_true hmod, need_true, ok_bind] at hplan
    obtain ⟨hfit, hfull⟩ := exec_of_packing_plan (by decide) (by decide) hready hin hplan
    have hempty : s.bitLen.toNat / 8 = 0 ↔ s.bitLen.toNat = 0 := by omega
    simp only [hempty] at hfit
    exact ⟨fun h => absurd hmod h, fun _ => hfit, fun _ => hfull⟩
  · rw [decide_eq_false hmod, need_false, error_bind] at hplan
    exact ⟨fun _ => exec_of_plan_error (by decide) (by decide) hready.1 hin hplan, fun h => absurd h hmod,
      fun h => absurd h hmod⟩

end Sys2Proof.Machine
end

section
/-!
SUPPORT. A sequence cut into whole pieces, and put together again piece by piece (41_hamming.md R93, R95).
-/

namespace Sys2Proof.Machine

variable {α β : Type}

theorem take_append_slice (s : List α) {a b : Nat} (h : a ≤ b) : s.take a ++ slice s a b = s.take b := by
  rw [slice, ← List.take_add, Nat.add_sub_cancel' h]

theorem slice_append_right (x rest : List α) (a b : Nat) :
    slice (x ++ rest) (x.length + a) (x.length + b) = slice rest a b := by
  rw [slice, slice, List.drop_length_add_append, Nat.add_sub_add_left]

/-- The whole pieces of a sequence, one after another, are the sequence up to the last of them. -/
theorem flatten_pieces (n : Nat) (s : List α) : (pieces n s).flatten = s.take (s.length / n * n) := by
  unfold pieces
  induction s.length / n with
  | zero => simp
  | succ k ih =>
    rw [List.range_succ, List.map_append, List.flatten_append, ih, List.map_singleton, List.flatten_singleton,
      take_append_slice s (Nat.mul_le_mul_right n k.le_succ)]

theorem flatten_pieces_of_dvd {n : Nat} {s : List α} (h : s.length % n = 0) : (pieces n s).flatten = s := by
  rw [flatten_pieces, Nat.div_mul_cancel (Nat.dvd_of_mod_eq_zero h), List.take_length]

theorem length_of_mem_pieces {n : Nat} {s p : List α} (hp : p ∈ pieces n s) : p.length = n := by
  obtain ⟨c, hc, rfl⟩ := List.getElem_of_mem hp
  rw [length_pieces] at hc
  have hlast : (c + 1) * n ≤ s.length := (Nat.mul_le_mul_right n hc).trans (Nat.div_mul_le_self _ n)
  rw [getElem_pieces, length_slice]
  rw [Nat.succ_mul] at hlast ⊢
  omega

/-- Piece `c` of blocks of `m` elements put one after another is block `c`. -/
theorem slice_flatten {m : Nat} {l : List (List α)} (h : ∀ x ∈ l, x.length = m) {c : Nat} (hc : c < l.length) :
    slice l.flatten (c * m) ((c + 1) * m) = l[c] := by
  induction l generalizing c with
  | nil => exact absurd hc (Nat.not_lt_zero c)
  | cons x rest ih =>
    obtain ⟨rfl, hrest⟩ := List.forall_mem_cons.1 h
    cases c with
    | zero => simp [slice]
    | succ c =>
      have hshift (k : Nat) : (k + 1) * x.length = x.length + k * x.length := by rw [Nat.succ_mul, Nat.add_comm]
      rw [List.flatten_cons, List.getElem_cons_succ, ← ih hrest (Nat.lt_of_succ_lt_succ hc), hshift (c + 1), hshift c,
        slice_append_right]

theorem length_flatMap_of_length {f : α → List β} {m : Nat} {l : List α} (h : ∀ x ∈ l, (f x).length = m) :
    (l.flatMap f).length = l.length * m := by
  rw [List.length_flatMap, List.map_congr_left h, List.map_const', List.sum_replicate, smul_eq_mul]

/-- Cutting what a block code put together gives its blocks. -/
theorem pieces_flatMap {f : α → List β} {m : Nat} (hm : 0 < m) {l : List α} (h : ∀ x ∈ l, (f x).length = m) :
    pieces m (l.flatMap f) = l.map f := by
  have hblocks : ∀ x ∈ l.map f, x.length = m := List.forall_mem_map.2 h
  refine List.ext_getElem ?_ fun c _ hc => ?_
  · rw [length_pieces, length_flatMap_of_length h, Nat.mul_div_cancel _ hm, List.length_map]
  · rw [getElem_pieces, List.flatMap_def, slice_flatten hblocks hc]

/-- Block `c` of a sequence coded piece by piece is piece `c` coded. -/
theorem slice_flatMap_pieces {f : List α → List β} {d m : Nat} {s : List α}
    (h : ∀ p : List α, p.length = d → (f p).length = m) {c : Nat} (hc : c < s.length / d) :
    slice ((pieces d s).flatMap f) (c * m) ((c + 1) * m) = f (slice s (c * d) ((c + 1) * d)) := by
  have hblocks : ∀ x ∈ (pieces d s).map f, x.length = m :=
    List.forall_mem_map.2 fun p hp => h p (length_of_mem_pieces hp)
  have hc' : c < ((pieces d s).map f).length := by simpa using hc
  rw [List.flatMap_def, slice_flatten hblocks hc', List.getElem_map, getElem_pieces]

end Sys2Proof.Machine
end

section
/-!
SUPPORT. Positions, flipped bits and distances: a block's bits by their 1-based positions, and what flipping some of
them does (41_hamming.md R92, R96).
-/

namespace Sys2Proof.Machine

/-! ## A position and its bit -/

@[simp] theorem mem_positions {n p : Nat} : p ∈ positions n ↔ 1 ≤ p ∧ p ≤ n := by
  simp only [positions, List.mem_map, List.mem_range]
  exact ⟨by rintro ⟨i, hi, rfl⟩; omega, fun h => ⟨p - 1, by omega, by omega⟩⟩

@[simp] theorem length_positions (n : Nat) : (positions n).length = n := by simp [positions]

theorem positions_succ (n : Nat) : positions (n + 1) = positions n ++ [n + 1] := by
  simp [positions, List.range_succ]

theorem mem_dataPositions {n p : Nat} : p ∈ dataPositions n ↔ p ∈ positions n ∧ isPow2 p = false := by
  simp [dataPositions]

/-- A block written position by position. -/
theorem bitAt1_map_positions {n p : Nat} (f : Nat → Bool) (hp : p ∈ positions n) :
    bitAt1 ((positions n).map f) p = f p := by
  rw [mem_positions] at hp
  have hget : (positions n)[p - 1]? = some p := by
    rw [positions, List.getElem?_map, List.getElem?_range (by omega), Option.map_some, Nat.sub_add_cancel hp.1]
  rw [bitAt1, List.getD_eq_getElem?_getD, List.getElem?_map, hget]
  rfl

/-! ## A flipped bit -/

@[simp] theorem length_flipAt (b : Bits) (i : Nat) : (flipAt b i).length = b.length := List.length_set

theorem flipAt_cons_zero (x : Bool) (b : Bits) : flipAt (x :: b) 0 = (!x) :: b := rfl

theorem flipAt_cons_succ (x : Bool) (b : Bits) (i : Nat) : flipAt (x :: b) (i + 1) = x :: flipAt b i := rfl

/-- Flipping index `i` changes the bit at position `i + 1` and no other. -/
theorem bitAt1_flipAt {blk : Bits} {p : Nat} (i : Nat) (hp : p ∈ positions blk.length) :
    bitAt1 (flipAt blk i) p = (bitAt1 blk p ^^ decide (p = i + 1)) := by
  rw [mem_positions] at hp
  by_cases h : p = i + 1
  · obtain rfl := h
    have hi : i < blk.length := by omega
    simp [bitAt1, flipAt, hi]
  · have hne : i ≠ p - 1 := by omega
    simp [bitAt1, flipAt, hne, h]

@[simp] theorem flipAt_flipAt (b : Bits) (i : Nat) : flipAt (flipAt b i) i = b := by
  induction b generalizing i with
  | nil => rfl
  | cons x b ih =>
    cases i with
    | zero => rw [flipAt_cons_zero, flipAt_cons_zero, Bool.not_not]
    | succ i => rw [flipAt_cons_succ, flipAt_cons_succ, ih]

/-! ## Distances -/

theorem bitDistance_cons (x y : Bool) (a b : Bits) :
    bitDistance (x :: a) (y :: b) = bitDistance a b + (x ^^ y).toNat := by
  unfold bitDistance
  cases x <;> cases y <;> simp

theorem foldl_flipAt_map_succ (x : Bool) (a : Bits) (l : List Nat) :
    (l.map Nat.succ).foldl flipAt (x :: a) = x :: l.foldl flipAt a := by
  induction l generalizing a with
  | nil => rfl
  | cons i l ih => exact ih (flipAt a i)

/-- A sequence becomes another of its length by as many flipped bits as their distance. -/
theorem exists_flips {a b : Bits} (hlen : a.length = b.length) :
    ∃ l : List Nat, l.length = bitDistance a b ∧ (∀ i ∈ l, i < a.length) ∧ l.foldl flipAt a = b := by
  induction a generalizing b with
  | nil => exact ⟨[], rfl, by simp, (List.eq_nil_of_length_eq_zero hlen.symm).symm⟩
  | cons x a ih =>
    obtain _ | ⟨y, b⟩ := b
    · cases hlen
    obtain ⟨l, hl, hmem, rfl⟩ := ih (Nat.succ.inj hlen)
    by_cases hxy : x = y
    · refine ⟨l.map Nat.succ, ?_, by simpa using hmem, by rw [foldl_flipAt_map_succ, hxy]⟩
      rw [bitDistance_cons, hxy, Bool.xor_self, List.length_map, hl]
      rfl
    · have hy : (!x) = y := Bool.not_eq.2 hxy
      refine ⟨0 :: l.map Nat.succ, ?_, by simpa using hmem, ?_⟩
      · rw [bitDistance_cons, ← hy, Bool.xor_not_self, List.length_cons, List.length_map, hl]
        rfl
      · rw [List.foldl_cons, flipAt_cons_zero, foldl_flipAt_map_succ, hy]

/-! ## The exclusive or of the positions that hold a 1 -/

/-- The exclusive or of the positions 1 .. n that hold a 1 (R94). -/
def onesXor (blk : Bits) : Nat → Nat
  | 0 => 0
  | n + 1 => onesXor blk n ^^^ if bitAt1 blk (n + 1) then n + 1 else 0

theorem foldl_filter_range_eq_onesXor (blk : Bits) (n : Nat) :
    ((List.range n).filter fun i => blk.getD i false).foldl (fun acc i => acc ^^^ (i + 1)) 0 = onesXor blk n := by
  induction n with
  | zero => rfl
  | succ n ih =>
    have hbit : bitAt1 blk (n + 1) = blk.getD n false := rfl
    rw [List.range_succ, List.filter_append, List.foldl_append, ih, onesXor, hbit]
    cases h : blk.getD n false <;> simp [-List.getD_eq_getElem?_getD, h]

/-- Bit `j` of it is the exclusive or of the bits at the positions whose bit `j` is 1. -/
theorem testBit_onesXor (blk : Bits) (n j : Nat) : (onesXor blk n).testBit j =
    ((positions n).filter (·.testBit j)).foldl (fun acc p => acc ^^ bitAt1 blk p) false := by
  induction n with
  | zero => exact Nat.zero_testBit j
  | succ n ih =>
    rw [onesXor, Nat.testBit_xor, ih, positions_succ, List.filter_append, List.foldl_append]
    cases hb : bitAt1 blk (n + 1) <;> cases hj : (n + 1).testBit j <;> simp [hb, hj]

/-- Flipping the bit at position `i + 1` adds that position. -/
theorem onesXor_flipAt {blk : Bits} (i : Nat) {n : Nat} (hn : n ≤ blk.length) :
    onesXor (flipAt blk i) n = onesXor blk n ^^^ if i < n then i + 1 else 0 := by
  induction n with
  | zero => exact (Nat.xor_self 0).symm
  | succ n ih =>
    rw [onesXor, onesXor, ih (by omega), bitAt1_flipAt i (mem_positions.2 ⟨by omega, hn⟩)]
    rcases Nat.lt_trichotomy i n with h | rfl | h
    · simp only [h, h.trans n.lt_succ_self, show n + 1 ≠ i + 1 by omega, decide_false, Bool.xor_false, if_true]
      exact Nat.xor_right_comm _ _ _
    · cases bitAt1 blk (i + 1) <;> simp
    · simp [show ¬ i < n by omega, show ¬ i < n + 1 by omega, show n ≠ i by omega]

end Sys2Proof.Machine
end

section
/-!
SUPPORT. The Hamming code of 4 and of 8 data bits: its syndrome is the exclusive or of the positions that hold a 1, and
what the decoder makes of a coded block with no, one or two bits flipped (41_hamming.md R91 to R96).
-/

namespace Sys2Proof.Machine

variable {d : Nat}

/-! ## The geometry -/

/-- `n` positions of which the first `k` powers of two are the parity positions, and the position `2 ^ j` with those it
covers makes the positions whose bit `j` is 1 (R91, R92). -/
structure HamGeometry (n k : Nat) : Prop where
  parities : (parityPositions n).zipIdx = (List.range k).map fun j => (2 ^ j, j)
  covers : ∀ j < k, (covered n (2 ^ j) ++ [2 ^ j]).Perm ((positions n).filter (·.testBit j))
  lt_two_pow : n < 2 ^ k

/-- A block of `d` data bits has `HAM_BLEN(d) - d` parity bits. -/
theorem hamGeometry (hd : d = 4 ∨ d = 8) : HamGeometry (hamBLen d) (hamBLen d - d) := by
  obtain rfl | rfl := hd
  · exact ⟨by decide, by decide, by decide⟩
  · exact ⟨by decide, by decide, by decide⟩

theorem length_dataPositions (hd : d = 4 ∨ d = 8) : (dataPositions (hamBLen d)).length = d := by
  obtain rfl | rfl := hd <;> decide

theorem hamBLen_pos (hd : d = 4 ∨ d = 8) : 0 < hamBLen d := by
  obtain rfl | rfl := hd <;> decide

theorem le_hamBLen (hd : d = 4 ∨ d = 8) : d ≤ hamBLen d := by
  obtain rfl | rfl := hd <;> decide

/-- Whole blocks decode to no bits only when there are no blocks. -/
theorem div_hamBLen_mul_eq_zero_iff (hd : d = 4 ∨ d = 8) {len : Nat} (h : len % hamBLen d = 0) :
    len / hamBLen d * d = 0 ↔ len = 0 := by
  have hd0 : d ≠ 0 := by omega
  obtain ⟨q, rfl⟩ := Nat.dvd_of_mod_eq_zero h
  rw [Nat.mul_div_cancel_left q (hamBLen_pos hd), Nat.mul_eq_zero, Nat.mul_eq_zero, or_comm]
  simp [hd0, (hamBLen_pos hd).ne']

/-- Two positions and their exclusive or are not all parity positions: some data position is an odd number of times
among them. -/
theorem exists_dataPosition_odd (hd : d = 4 ∨ d = 8) : ∀ j < hamBLen d, ∀ i < j, ∃ p ∈ dataPositions (hamBLen d),
    (decide (p = i + 1) ^^ (decide (p = j + 1) ^^ decide (p = (i + 1) ^^^ (j + 1)))) = true := by
  obtain rfl | rfl := hd <;> decide

/-! ## The syndrome -/

theorem testBit_foldl_or_shiftLeft (P : Nat × Nat → Bool) (l : List (Nat × Nat)) (a j : Nat) :
    (l.foldl (fun acc q => if P q then acc ||| 1 <<< q.2 else acc) a).testBit j =
      (a.testBit j || l.any fun q => P q && decide (q.2 = j)) := by
  induction l generalizing a with
  | nil => simp
  | cons q l ih =>
    rw [List.foldl_cons, ih]
    cases h : P q <;> simp [h, Nat.one_shiftLeft, Nat.testBit_two_pow, Bool.or_assoc]

/-- Bit `j` of the syndrome is the recomputed parity of position `2 ^ j` against the stored one (R94). -/
theorem testBit_syndrome (hd : d = 4 ∨ d = 8) (blk : Bits) (j : Nat) :
    (syndrome d blk).testBit j =
      (decide (j < hamBLen d - d) && (par (hamBLen d) blk (2 ^ j) ^^ bitAt1 blk (2 ^ j))) := by
  rw [syndrome, testBit_foldl_or_shiftLeft (fun q => par (hamBLen d) blk q.1 ^^ bitAt1 blk q.1),
    (hamGeometry hd).parities, Nat.zero_testBit, Bool.false_or, Bool.eq_iff_iff]
  simp

/-- The syndrome of any block is the exclusive or of the positions that hold a 1 (R94). -/
theorem syndrome_eq_onesXor (hd : d = 4 ∨ d = 8) (blk : Bits) : syndrome d blk = onesXor blk (hamBLen d) := by
  obtain ⟨-, hcovers, hlt⟩ := hamGeometry hd
  refine Nat.eq_of_testBit_eq fun j => ?_
  rw [testBit_syndrome hd, testBit_onesXor]
  rcases Nat.lt_or_ge j (hamBLen d - d) with hj | hj
  · have : RightCommutative fun (acc : Bool) p => acc ^^ bitAt1 blk p := ⟨fun a p q => Bool.xor_right_comm a _ _⟩
    rw [decide_eq_true hj, Bool.true_and, ← (hcovers j hj).foldl_eq, List.foldl_append]
    rfl
  · have hnone : (positions (hamBLen d)).filter (·.testBit j) = [] := by
      refine List.filter_eq_nil_iff.2 fun p hp => ?_
      have hp := (mem_positions.1 hp).2
      simp [Nat.testBit_lt_two_pow (hp.trans_lt (hlt.trans_le (Nat.pow_le_pow_right (by decide) hj)))]
    rw [decide_eq_false (Nat.not_lt.2 hj), hnone]
    rfl

/-- Flipping the bit at position `i + 1` of a block adds that position to its syndrome (R96). -/
theorem syndrome_flipAt (hd : d = 4 ∨ d = 8) {blk : Bits} (hlen : blk.length = hamBLen d) {i : Nat}
    (hi : i < hamBLen d) : syndrome d (flipAt blk i) = syndrome d blk ^^^ (i + 1) := by
  rw [syndrome_eq_onesXor hd, syndrome_eq_onesXor hd, onesXor_flipAt i hlen.ge, if_pos hi]

/-! ## Decoding a block -/

/-- What any block decodes to: its data bits, the one at the position the syndrome names flipped, if one is (R94). -/
theorem hamDecBlock_eq {blk : Bits} (hlen : blk.length = hamBLen d) : hamDecBlock d blk =
    (dataPositions (hamBLen d)).map fun p => bitAt1 blk p ^^ decide (p = syndrome d blk) := by
  refine List.map_congr_left fun p hp => ?_
  have hp := hlen.symm ▸ (mem_dataPositions.1 hp).1
  obtain ⟨hp1, hpn⟩ := mem_positions.1 hp
  split
  · next h =>
    refine (bitAt1_flipAt (syndrome d blk - 1) hp).trans ?_
    rw [Nat.sub_add_cancel h.1]
  · next h =>
    rw [decide_eq_false (by omega), Bool.xor_false]

/-- The same, as the rule has it: the bit the syndrome names is flipped, if it is a position, then the data positions
are read (R94). -/
theorem hamDecBlock_eq_map_fixed (hd : d = 4 ∨ d = 8) {n : Nat} {ps : List Nat} (hn : hamBLen d = n)
    (hps : dataPositions n = ps) (blk : Bits) : hamDecBlock d blk = ps.map fun p =>
      (if 1 ≤ onesXor blk n ∧ onesXor blk n ≤ n then flipAt blk (onesXor blk n - 1) else blk).getD (p - 1) false := by
  obtain rfl := hn
  obtain rfl := hps
  rw [hamDecBlock, syndrome_eq_onesXor hd]
  rfl

theorem length_hamDecBlock (hd : d = 4 ∨ d = 8) (blk : Bits) : (hamDecBlock d blk).length = d := by
  rw [hamDecBlock, List.length_map, length_dataPositions hd]

/-! ## A coded block -/

@[simp] theorem length_hamEncBlock (d : Nat) (chunk : Bits) : (hamEncBlock d chunk).length = hamBLen d := by
  rw [hamEncBlock, List.length_map, length_positions]

/-- A parity reads the data positions only. -/
theorem par_congr {n : Nat} {a b : Bits} (h : ∀ p ∈ dataPositions n, bitAt1 a p = bitAt1 b p) (q : Nat) :
    par n a q = par n b q :=
  List.foldl_ext _ _ _ fun acc p hp => by rw [h p (List.mem_filter.1 hp).1]

theorem bitAt1_hamEncBlock_of_data {chunk : Bits} {p : Nat} (hp : p ∈ dataPositions (hamBLen d)) :
    bitAt1 (hamEncBlock d chunk) p = bitAt1 (placeData (hamBLen d) chunk) p := by
  obtain ⟨hpos, hpow⟩ := mem_dataPositions.1 hp
  rw [hamEncBlock, bitAt1_map_positions _ hpos, hpow, if_neg Bool.false_ne_true]

/-- A parity position of a coded block holds the parity of the block (R93). -/
theorem bitAt1_hamEncBlock_of_parity {chunk : Bits} {p : Nat} (hp : p ∈ parityPositions (hamBLen d)) :
    bitAt1 (hamEncBlock d chunk) p = par (hamBLen d) (hamEncBlock d chunk) p := by
  obtain ⟨hpos, hpow⟩ := List.mem_filter.1 hp
  rw [par_congr (fun _ => bitAt1_hamEncBlock_of_data) p]
  rw [hamEncBlock, bitAt1_map_positions _ hpos, if_pos hpow]

theorem syndrome_hamEncBlock (d : Nat) (chunk : Bits) : syndrome d (hamEncBlock d chunk) = 0 := by
  have hstep (syn : Nat) : ∀ q ∈ (parityPositions (hamBLen d)).zipIdx,
      (if par (hamBLen d) (hamEncBlock d chunk) q.1 ^^ bitAt1 (hamEncBlock d chunk) q.1
        then syn ||| (1 <<< q.2) else syn) = syn := by
    intro q hq
    rw [bitAt1_hamEncBlock_of_parity (List.fst_mem_of_mem_zipIdx hq), Bool.xor_self, if_neg Bool.false_ne_true]
  exact (List.foldl_ext _ _ 0 hstep).trans (List.foldl_fixed _)

/-- The data positions of a coded block hold the chunk, in order (R93). -/
theorem map_bitAt1_hamEncBlock (hd : d = 4 ∨ d = 8) {chunk : Bits} (hlen : chunk.length = d) :
    (dataPositions (hamBLen d)).map (bitAt1 (hamEncBlock d chunk)) = chunk := by
  have hnodup : (dataPositions (hamBLen d)).Nodup :=
    (List.nodup_range.map Nat.succ_injective).filter _
  refine List.ext_getElem ?_ fun k hk hk' => ?_
  · rw [List.length_map, length_dataPositions hd, hlen]
  · have hk : k < (dataPositions (hamBLen d)).length := by simpa using hk
    have hp := List.getElem_mem hk
    obtain ⟨hpos, hpow⟩ := mem_dataPositions.1 hp
    rw [List.getElem_map, bitAt1_hamEncBlock_of_data hp, placeData, bitAt1_map_positions _ hpos, hpow,
      if_neg Bool.false_ne_true, hnodup.idxOf_getElem, List.getD_eq_getElem]

theorem hamDecBlock_hamEncBlock (hd : d = 4 ∨ d = 8) {chunk : Bits} (hlen : chunk.length = d) :
    hamDecBlock d (hamEncBlock d chunk) = chunk := by
  rw [hamDecBlock_eq (length_hamEncBlock d chunk), syndrome_hamEncBlock]
  refine Eq.trans (List.map_congr_left fun p hp => ?_) (map_bitAt1_hamEncBlock hd hlen)
  have hp := (mem_positions.1 (mem_dataPositions.1 hp).1).1
  rw [decide_eq_false (by omega), Bool.xor_false]

/-! ## Flipped bits in a coded block -/

theorem syndrome_flipAt_hamEncBlock (hd : d = 4 ∨ d = 8) (chunk : Bits) {i : Nat} (hi : i < hamBLen d) :
    syndrome d (flipAt (hamEncBlock d chunk) i) = i + 1 := by
  rw [syndrome_flipAt hd (length_hamEncBlock d chunk) hi, syndrome_hamEncBlock, Nat.zero_xor]

theorem syndrome_flipAt_flipAt_hamEncBlock (hd : d = 4 ∨ d = 8) (chunk : Bits) {i j : Nat} (hi : i < hamBLen d)
    (hj : j < hamBLen d) : syndrome d (flipAt (flipAt (hamEncBlock d chunk) i) j) = (i + 1) ^^^ (j + 1) := by
  rw [syndrome_flipAt hd (by simp) hj, syndrome_flipAt_hamEncBlock hd chunk hi]

/-- One flipped bit is corrected: the syndrome names it, so it is flipped back (R96 (b)). -/
theorem hamDecBlock_flipAt_hamEncBlock (hd : d = 4 ∨ d = 8) {chunk : Bits} (hlen : chunk.length = d) {i : Nat}
    (hi : i < hamBLen d) : hamDecBlock d (flipAt (hamEncBlock d chunk) i) = chunk := by
  rw [hamDecBlock_eq (by simp), syndrome_flipAt_hamEncBlock hd chunk hi]
  refine Eq.trans (List.map_congr_left fun p hp => ?_) (map_bitAt1_hamEncBlock hd hlen)
  rw [bitAt1_flipAt i (by simpa using (mem_dataPositions.1 hp).1), Bool.xor_assoc, Bool.xor_self, Bool.xor_false]

/-- Two flipped bits give wrong data: of the three positions flipped in the end, some data position is an odd number of
times among them (R96 (c)). -/
theorem hamDecBlock_flipAt_flipAt_hamEncBlock_ne (hd : d = 4 ∨ d = 8) {chunk : Bits} (hlen : chunk.length = d)
    {i j : Nat} (hij : i < j) (hj : j < hamBLen d) :
    hamDecBlock d (flipAt (flipAt (hamEncBlock d chunk) i) j) ≠ chunk := by
  intro h
  obtain ⟨p, hp, hodd⟩ := exists_dataPosition_odd hd j hj i hij
  have hpos := (mem_dataPositions.1 hp).1
  rw [hamDecBlock_eq (by simp), syndrome_flipAt_flipAt_hamEncBlock hd chunk (hij.trans hj) hj] at h
  have hbit := List.map_inj_left.1 (h.trans (map_bitAt1_hamEncBlock hd hlen).symm) p hp
  rw [bitAt1_flipAt j (by simpa using hpos), bitAt1_flipAt i (by simpa using hpos), Bool.xor_assoc, Bool.xor_assoc,
    hodd] at hbit
  simp at hbit

/-- Coded blocks of different chunks differ in at least three bits: one with fewer bits flipped has a syndrome that is
not 0, or is the same block (R96 (d)). -/
theorem three_le_bitDistance_hamEncBlock (hd : d = 4 ∨ d = 8) {a b : Bits} (ha : a.length = d) (hb : b.length = d)
    (hne : a ≠ b) : 3 ≤ bitDistance (hamEncBlock d a) (hamEncBlock d b) := by
  have hsyn := syndrome_hamEncBlock d b
  have hblocks : hamEncBlock d a ≠ hamEncBlock d b := fun h =>
    hne (by rw [← hamDecBlock_hamEncBlock hd ha, h, hamDecBlock_hamEncBlock hd hb])
  obtain ⟨l, hl, hmem, hflips⟩ :=
    exists_flips ((length_hamEncBlock d a).trans (length_hamEncBlock d b).symm)
  rw [length_hamEncBlock] at hmem
  rw [← hl]
  match l with
  | [] => exact absurd hflips hblocks
  | [i] =>
    rw [← hflips, List.foldl_cons, List.foldl_nil, syndrome_flipAt_hamEncBlock hd a (hmem i (by simp))] at hsyn
    exact absurd hsyn (Nat.succ_ne_zero i)
  | [i, j] =>
    rw [← hflips, List.foldl_cons, List.foldl_cons, List.foldl_nil,
      syndrome_flipAt_flipAt_hamEncBlock hd a (hmem i (by simp)) (hmem j (by simp)), Nat.xor_eq_zero_iff] at hsyn
    obtain rfl := Nat.succ.inj hsyn
    exact absurd ((flipAt_flipAt _ i).symm.trans hflips) hblocks
  | _ :: _ :: _ :: _ => exact Nat.le_add_left 3 _

/-! ## Sequences -/

@[simp] theorem length_hamEnc (d : Nat) (s : Bits) : (hamEnc d s).length = s.length / d * hamBLen d := by
  rw [hamEnc, length_flatMap_of_length fun p _ => length_hamEncBlock d p, length_pieces]

theorem hamDec_of_mod_ne {s : Bits} (h : s.length % hamBLen d ≠ 0) : hamDec d s = none := if_pos h

/-- A whole number of blocks always decodes (R96 (e)). -/
theorem hamDec_of_mod_eq {s : Bits} (h : s.length % hamBLen d = 0) :
    hamDec d s = some ((pieces (hamBLen d) s).flatMap (hamDecBlock d)) := if_neg (not_not_intro h)

theorem length_flatMap_hamDecBlock (hd : d = 4 ∨ d = 8) (s : Bits) :
    ((pieces (hamBLen d) s).flatMap (hamDecBlock d)).length = s.length / hamBLen d * d := by
  rw [length_flatMap_of_length fun p _ => length_hamDecBlock hd p, length_pieces]

/-- Decoding undoes encoding: the blocks are cut apart again, and each decodes to its chunk (R96 (a)). -/
theorem hamDec_hamEnc (hd : d = 4 ∨ d = 8) {s : Bits} (h : s.length % d = 0) : hamDec d (hamEnc d s) = some s := by
  have hblocks : pieces (hamBLen d) (hamEnc d s) = (pieces d s).map (hamEncBlock d) :=
    pieces_flatMap (hamBLen_pos hd) fun p _ => length_hamEncBlock d p
  rw [hamDec_of_mod_eq (by rw [length_hamEnc, Nat.mul_mod_left]), hblocks, List.flatMap_map,
    List.flatMap_def, List.map_congr_left fun p hp => hamDecBlock_hamEncBlock hd (length_of_mem_pieces hp),
    List.map_id', flatten_pieces_of_dvd h]

/-- Settles O19: block by block, and by the syndrome of the flipped bit. -/
theorem hammingCorrectsOneError : Obligations.HammingCorrectsOneError := by
  unfold Obligations.HammingCorrectsOneError
  intro d hd
  refine ⟨fun s hs => hamDec_hamEnc hd hs, fun chunk hlen i hi => ?_, fun s hs => ?_⟩
  · exact ⟨syndrome_flipAt_hamEncBlock hd chunk hi, hamDecBlock_flipAt_hamEncBlock hd hlen hi⟩
  · exact ⟨_, hamDec_of_mod_eq hs, length_flatMap_hamDecBlock hd s⟩

/-- Settles O20: by the syndrome of the two flipped bits; the chunks 0…0 and 10…0 are at distance 3. -/
theorem hammingTwoErrorsGiveWrongData : Obligations.HammingTwoErrorsGiveWrongData := by
  unfold Obligations.HammingTwoErrorsGiveWrongData
  intro d hd
  refine ⟨fun chunk hlen j hj i hij => ?_, fun a b ha hb hne => three_le_bitDistance_hamEncBlock hd ha hb hne, ?_⟩
  · exact ⟨syndrome_flipAt_flipAt_hamEncBlock hd chunk (hij.trans hj) hj,
      hamDecBlock_flipAt_flipAt_hamEncBlock_ne hd hlen hij hj⟩
  · refine ⟨List.replicate d false, true :: List.replicate (d - 1) false, ?_⟩
    obtain rfl | rfl := hd <;> decide

end Sys2Proof.Machine
end

section
/-!
SUPPORT. The commands `HAM.ENC` and `HAM.DEC`: which plan each state gives them, and what they leave
(41_hamming.md R93, R95).
-/

namespace Sys2Proof.Machine

variable {s : State}

/-! ## The plans -/

theorem hamEncPlan_of_not_ok (h : ¬ s.HamOk) : hamEncPlan s = .error (Raise.of .config 0x10) := by
  rw [hamEncPlan, State.checkHam_of_not_ok h]
  rfl

theorem hamEncPlan_of_mod_ne (h : s.HamOk) (hlen : s.bitLen.toNat % s.hamDSize ≠ 0) :
    hamEncPlan s = .error (Raise.of .length s.bitLen.toNat) := by
  rw [hamEncPlan, State.checkHam_of_ok h, State.length_bits, decide_eq_false hlen]
  rfl

theorem hamEncPlan_of_mod_eq (h : s.HamOk) (hlen : s.bitLen.toNat % s.hamDSize = 0) :
    hamEncPlan s = s.planBits (hamEnc s.hamDSize s.bits) (Flags.written s.bits) := by
  rw [hamEncPlan, State.checkHam_of_ok h, State.length_bits, decide_eq_true hlen]
  rfl

theorem hamDecPlan_of_not_ok (h : ¬ s.HamOk) : hamDecPlan s = .error (Raise.of .config 0x10) := by
  rw [hamDecPlan, State.checkHam_of_not_ok h]
  rfl

theorem hamDecPlan_of_mod_ne (h : s.HamOk) (hlen : s.bitLen.toNat % hamBLen s.hamDSize ≠ 0) :
    hamDecPlan s = s.planBits [] { empty := true, decFail := true } := by
  rw [← State.length_bits] at hlen
  rw [hamDecPlan, State.checkHam_of_ok h, hamDec_of_mod_ne hlen]
  rfl

theorem hamDecPlan_of_mod_eq (h : s.HamOk) (hlen : s.bitLen.toNat % hamBLen s.hamDSize = 0) :
    hamDecPlan s = s.planBits ((pieces (hamBLen s.hamDSize) s.bits).flatMap (hamDecBlock s.hamDSize))
      (Flags.written ((pieces (hamBLen s.hamDSize) s.bits).flatMap (hamDecBlock s.hamDSize))) := by
  rw [← State.length_bits] at hlen
  rw [hamDecPlan, State.checkHam_of_ok h, hamDec_of_mod_eq hlen]
  rfl

/-! ## The results -/

/-- Settles O17: the three checks in their order, then the plan that stores the coded chunks. -/
theorem hammingEncodeResult : Obligations.HammingEncodeResult := by
  unfold Obligations.HammingEncodeResult
  intro s hready hfits
  have hin : ∀ b, Instr.input .hamEnc = some b → s.Fits b := fun b hb => Option.some.inj hb ▸ hfits
  have hlen : (hamEnc s.hamDSize s.bits).length = s.bitLen.toNat / s.hamDSize * hamBLen s.hamDSize := by
    rw [length_hamEnc, State.length_bits]
  have hraises {code info} (hplan : hamEncPlan s = .error (Raise.of code info)) :
      exec .hamEnc s = .next (s.faulted code info) :=
    exec_of_plan_error (by decide) (by decide) hready.1 hin hplan
  have hstores (hd : s.HamOk) (hmod : s.bitLen.toNat % s.hamDSize = 0) :=
    exec_of_planBits (i := .hamEnc) (by decide) (by decide) hready hin (hamEncPlan_of_mod_eq hd hmod)
  rw [hlen, Flags.written_eq, State.length_bits] at hstores
  refine ⟨fun hd => hraises (hamEncPlan_of_not_ok hd), fun hd hmod => hraises (hamEncPlan_of_mod_ne hd hmod),
    fun hd hmod => (hstores hd hmod).2, fun hd hmod hcap => ?_⟩
  obtain ⟨t, ht, hbits, hended, hframe⟩ := (hstores hd hmod).1 hcap
  refine ⟨t, ht, by rw [← State.length_bits, hbits, hlen], fun c hc => ?_, hended, hframe⟩
  rw [hbits]
  exact slice_flatMap_pieces (fun p _ => length_hamEncBlock s.hamDSize p) (s.length_bits.symm ▸ hc)

/-- What `HAM.DEC` leaves when the length is a whole number of blocks; the result, no longer than the input, fits. -/
theorem exec_hamDec_of_mod_eq (hready : s.Ready) (hfits : s.Fits .bit) (hd : s.HamOk)
    (hmod : s.bitLen.toNat % hamBLen s.hamDSize = 0) :
    ∃ t, exec .hamDec s = .next t ∧
      t.bits = (pieces (hamBLen s.hamDSize) s.bits).flatMap (hamDecBlock s.hamDSize) ∧
      Ended s t { empty := decide (s.bitLen.toNat = 0) } ∧ WritesOnlyBits s t := by
  have hin : ∀ b, Instr.input .hamDec = some b → s.Fits b := fun b hb => Option.some.inj hb ▸ hfits
  have hlen := length_flatMap_hamDecBlock hd s.bits
  rw [State.length_bits] at hlen
  have hle : s.bitLen.toNat / hamBLen s.hamDSize * s.hamDSize ≤ s.bitLen.toNat :=
    (Nat.mul_le_mul_left _ (le_hamBLen hd)).trans (Nat.div_mul_le_self _ _)
  have hstores := (exec_of_planBits (i := .hamDec) (by decide) (by decide) hready hin
    (hamDecPlan_of_mod_eq hd hmod)).1
  rw [Flags.written_eq, hlen] at hstores
  simp only [div_hamBLen_mul_eq_zero_iff hd hmod] at hstores
  exact hstores (hle.trans hfits)

/-- Settles O18: the command by its plan, the syndrome by `syndrome_eq_onesXor`. -/
theorem hammingDecodeResult : Obligations.HammingDecodeResult := by
  unfold Obligations.HammingDecodeResult
  refine ⟨fun s hready hfits => ?_, fun c hc blk _ => ?_⟩
  · have hin : ∀ b, Instr.input .hamDec = some b → s.Fits b := fun b hb => Option.some.inj hb ▸ hfits
    refine ⟨fun hd => ?_, fun hd hmod => ?_, fun hd hmod => ?_⟩
    · exact exec_of_plan_error (by decide) (by decide) hready.1 hin (hamDecPlan_of_not_ok hd)
    · obtain ⟨t, ht, hbits, hended, hframe⟩ := (exec_of_planBits (i := .hamDec) (by decide) (by decide) hready hin
        (hamDecPlan_of_mod_ne hd hmod)).1 (Nat.zero_le _)
      have hlen : t.bitLen.toNat = 0 := by rw [← State.length_bits, hbits, List.length_nil]
      exact ⟨t, ht, BitVec.eq_of_toNat_eq hlen, hended, hframe⟩
    · obtain ⟨t, ht, hbits, hended, hframe⟩ := exec_hamDec_of_mod_eq hready hfits hd hmod
      refine ⟨t, ht, ?_, fun c hc => ?_, hended, hframe⟩
      · rw [← State.length_bits, hbits, length_flatMap_hamDecBlock hd, State.length_bits]
      · rw [hbits]
        exact slice_flatMap_pieces (fun p _ => length_hamDecBlock hd p) (s.length_bits.symm ▸ hc)
  · rw [foldl_filter_range_eq_onesXor]
    obtain ⟨⟨-, -, hdata4⟩, ⟨-, -, hdata8⟩, -⟩ := hammingBlockLayout
    obtain rfl | rfl := List.mem_pair.1 hc
    · exact ⟨hamBLen_four ▸ syndrome_eq_onesXor (.inl rfl) blk,
        hamDecBlock_eq_map_fixed (.inl rfl) hamBLen_four hdata4 blk⟩
    · exact ⟨hamBLen_eight ▸ syndrome_eq_onesXor (.inr rfl) blk,
        hamDecBlock_eq_map_fixed (.inr rfl) hamBLen_eight hdata8 blk⟩

end Sys2Proof.Machine
end

section
/-!
SUPPORT. The field of the Reed–Solomon code (42_reed_solomon.md R101): XOR and `gmul` make the 256 bytes a field. The
laws of `gmul` are XOR-linear in each argument, so each is checked on the eight one-bit bytes only.
-/

namespace Sys2Proof.Machine

/-! ## The product is linear in each argument -/

theorem foldl_xor_terms {ι : Type} (f g : ι → Nat) (l : List ι) (x y : Nat) :
    l.foldl (fun r i => r ^^^ (f i ^^^ g i)) (x ^^^ y) =
      l.foldl (fun r i => r ^^^ f i) x ^^^ l.foldl (fun r i => r ^^^ g i) y := by
  induction l generalizing x y with
  | nil => rfl
  | cons i l ih =>
    have hswap : x ^^^ y ^^^ (f i ^^^ g i) = x ^^^ f i ^^^ (y ^^^ g i) := by ac_rfl
    rw [List.foldl_cons, hswap, ih, List.foldl_cons, List.foldl_cons]

/-- The product is the XOR of one term for each bit of the second factor. -/
theorem polyMul_eq_foldl (a b : Nat) :
    polyMul a b = (List.range 8).foldl (fun r i => r ^^^ if b.testBit i then a <<< i else 0) 0 := by
  unfold polyMul
  congr 1
  funext r i
  split <;> simp

theorem polyMul_xor_left (a b c : Nat) : polyMul (a ^^^ b) c = polyMul a c ^^^ polyMul b c := by
  simp only [polyMul_eq_foldl]
  rw [← foldl_xor_terms _ _ _ 0 0]
  congr 1
  funext r i
  split <;> simp [Nat.shiftLeft_xor_distrib]

theorem polyMul_xor_right (a b c : Nat) : polyMul a (b ^^^ c) = polyMul a b ^^^ polyMul a c := by
  simp only [polyMul_eq_foldl]
  rw [← foldl_xor_terms _ _ _ 0 0]
  congr 1
  funext r i
  cases hb : b.testBit i <;> cases hc : c.testBit i <;> simp [hb, hc]

theorem polyReduce_xor (x y : Nat) : polyReduce (x ^^^ y) = polyReduce x ^^^ polyReduce y := by
  unfold polyReduce
  induction [14, 13, 12, 11, 10, 9, 8] generalizing x y with
  | nil => rfl
  | cons i l ih =>
    simp only [List.foldl_cons, ← ih]
    congr 1
    cases hx : x.testBit i <;> cases hy : y.testBit i <;>
      simp [hx, hy, Nat.xor_assoc, Nat.xor_comm, Nat.xor_left_comm]

theorem gmul_xor_left (a b c : Byte) : gmul (a ^^^ b) c = gmul a c ^^^ gmul b c := by
  simp only [gmul, BitVec.toNat_xor, polyMul_xor_left, polyReduce_xor, BitVec.ofNat_xor]

theorem gmul_xor_right (a b c : Byte) : gmul a (b ^^^ c) = gmul a b ^^^ gmul a c := by
  simp only [gmul, BitVec.toNat_xor, polyMul_xor_right, polyReduce_xor, BitVec.ofNat_xor]

/-! ## The laws, checked on one-bit bytes -/

/-- The bytes with one bit set. -/
def oneBitBytes : List Byte := [1, 2, 4, 8, 16, 32, 64, 128]

/-- Every byte is the XOR of one-bit bytes. -/
theorem byte_eq_foldl_xor (a : Byte) :
    a = (oneBitBytes.filter fun b => a &&& b != 0).foldl (· ^^^ ·) 0 := by
  decide +revert

/-- What holds of the one-bit bytes and is kept by XOR holds of every byte, 0 being `1 ^^^ 1`. -/
theorem byte_xor_induction {P : Byte → Prop} (hbit : ∀ a ∈ oneBitBytes, P a)
    (hxor : ∀ a b, P a → P b → P (a ^^^ b)) (a : Byte) : P a := by
  have hone : P 1 := hbit 1 (by decide)
  rw [byte_eq_foldl_xor a]
  exact List.foldlRecOn _ _ (hxor 1 1 hone hone) fun x hx b hb => hxor x b hx (hbit b (List.mem_of_mem_filter hb))

/-- What holds of 1 and is kept by XOR and by doubling holds of every byte. -/
theorem byte_doubling_induction {P : Byte → Prop} (hone : P 1) (hxor : ∀ a b, P a → P b → P (a ^^^ b))
    (hdouble : ∀ a, P a → P (gmul a 2)) (a : Byte) : P a := by
  have h2 : P 2 := hdouble 1 hone
  have h4 : P 4 := hdouble 2 h2
  have h8 : P 8 := hdouble 4 h4
  have h16 : P 16 := hdouble 8 h8
  have h32 : P 32 := hdouble 16 h16
  have h64 : P 64 := hdouble 32 h32
  have h128 : P 128 := hdouble 64 h64
  refine byte_xor_induction ?_ hxor a
  simp only [oneBitBytes, List.forall_mem_cons]
  exact ⟨hone, h2, h4, h8, h16, h32, h64, h128, List.forall_mem_nil _⟩

theorem gmul_zero (a : Byte) : gmul a 0 = 0 := by
  have h := gmul_xor_right a 0 0
  rwa [BitVec.xor_self, BitVec.xor_self] at h

theorem zero_gmul (a : Byte) : gmul 0 a = 0 := by
  have h := gmul_xor_left 0 0 a
  rwa [BitVec.xor_self, BitVec.xor_self] at h

/-- `f` is XOR-linear in each argument. -/
structure XorBilinear (f : Byte → Byte → Byte) : Prop where
  left : ∀ a b c, f (a ^^^ b) c = f a c ^^^ f b c
  right : ∀ a b c, f a (b ^^^ c) = f a b ^^^ f a c

/-- Two functions that are XOR-linear in each argument are the same if they agree on one-bit bytes. -/
theorem XorBilinear.ext {f g : Byte → Byte → Byte} (hf : XorBilinear f) (hg : XorBilinear g)
    (h : ∀ x ∈ oneBitBytes, ∀ y ∈ oneBitBytes, f x y = g x y) (a b : Byte) : f a b = g a b := by
  induction a using byte_xor_induction with
  | hbit x hx =>
    induction b using byte_xor_induction with
    | hbit y hy => exact h x hx y hy
    | hxor y z hy hz => rw [hf.right, hg.right, hy, hz]
  | hxor x y hx hy => rw [hf.left, hg.left, hx, hy]

theorem xorBilinear_gmul : XorBilinear gmul := ⟨gmul_xor_left, gmul_xor_right⟩

theorem gmul_comm (a b : Byte) : gmul a b = gmul b a := by
  have hflip : XorBilinear fun a b => gmul b a :=
    ⟨fun a b c => gmul_xor_right c a b, fun a b c => gmul_xor_left b c a⟩
  exact xorBilinear_gmul.ext hflip (by decide) a b

theorem one_gmul (a : Byte) : gmul 1 a = a := by
  have hbits : ∀ x ∈ oneBitBytes, gmul 1 x = x := by decide
  induction a using byte_xor_induction with
  | hbit x hx => exact hbits x hx
  | hxor x y hx hy => rw [gmul_xor_right, hx, hy]

theorem gmul_gmul_two (a b : Byte) : gmul (gmul a b) 2 = gmul a (gmul b 2) := by
  have hleft : XorBilinear fun a b => gmul (gmul a b) 2 :=
    ⟨fun a b c => by simp only [gmul_xor_left], fun a b c => by simp only [gmul_xor_left, gmul_xor_right]⟩
  have hright : XorBilinear fun a b => gmul a (gmul b 2) :=
    ⟨fun a b c => by simp only [gmul_xor_left], fun a b c => by simp only [gmul_xor_left, gmul_xor_right]⟩
  exact hleft.ext hright (by decide +kernel) a b

theorem gmul_assoc (a b c : Byte) : gmul (gmul a b) c = gmul a (gmul b c) := by
  induction c using byte_doubling_induction generalizing a b with
  | hone => rw [gmul_comm _ 1, gmul_comm b 1, one_gmul, one_gmul]
  | hxor c d hc hd => rw [gmul_xor_right, gmul_xor_right, gmul_xor_right, hc, hd]
  | hdouble c hc => rw [← gmul_gmul_two, hc, gmul_gmul_two, gmul_gmul_two]

/-! ## The bytes as a ring -/

/-- `φ` reads the bytes as elements of a ring in which XOR is the sum and `gmul` the product. -/
structure ReadsRing {R : Type} [CommRing R] (φ : Byte → R) : Prop where
  injective : Function.Injective φ
  map_one : φ 1 = 1
  map_xor : ∀ a b, φ (a ^^^ b) = φ a + φ b
  map_gmul : ∀ a b, φ (gmul a b) = φ a * φ b

/-- The bytes with XOR and `gmul`. Given by hand where it is used: `BitVec` has another addition and product of its own. -/
abbrev byteRing : CommRing Byte :=
  @CommRing.ofMinimalAxioms Byte ⟨(· ^^^ ·)⟩ ⟨gmul⟩ ⟨id⟩ ⟨0⟩ ⟨1⟩ BitVec.xor_assoc (fun _ => BitVec.zero_xor)
    (fun _ => BitVec.xor_self) gmul_assoc gmul_comm one_gmul gmul_xor_right

theorem exists_readsRing : ∃ (R : Type) (_ : CommRing R) (φ : Byte → R), ReadsRing φ :=
  ⟨Byte, byteRing, id, @ReadsRing.mk Byte byteRing id (fun _ _ h => h) rfl (fun _ _ => rfl) (fun _ _ => rfl)⟩

namespace ReadsRing

variable {R : Type} [CommRing R] {φ : Byte → R} (hφ : ReadsRing φ)
include hφ

theorem map_zero : φ 0 = 0 := by
  have h : φ 0 = φ 0 + φ 0 := hφ.map_xor 0 0
  rwa [left_eq_add] at h

theorem map_eq_zero_iff (a : Byte) : φ a = 0 ↔ a = 0 := by
  rw [← hφ.map_zero, hφ.injective.eq_iff]

theorem one_ne_zero : (1 : R) ≠ 0 := by
  rw [← hφ.map_one]
  exact (hφ.map_eq_zero_iff 1).not.2 (by decide)

/-- A sum of a byte with itself is 0. -/
theorem charTwo : CharP R 2 := by
  refine CharTwo.of_one_ne_zero_of_two_eq_zero hφ.one_ne_zero ?_
  rw [← one_add_one_eq_two, ← hφ.map_one, ← hφ.map_xor, BitVec.xor_self]
  exact hφ.map_zero

theorem map_gpow (a : Byte) (k : Nat) : φ (gpow a k) = φ a ^ k := by
  induction k with
  | zero => exact hφ.map_one.trans (pow_zero _).symm
  | succ k ih => rw [gpow, hφ.map_gmul, ih, pow_succ']

theorem map_alphaPow (k : Nat) : φ (alphaPow k) = φ Config.rsAlpha ^ k := hφ.map_gpow _ k

/-- The inverse of the model is the 254th power. -/
theorem map_ginv (a : Byte) : φ (ginv a) = φ a ^ 254 := by
  simp only [ginv, List.range_succ, List.range_zero, List.nil_append, List.cons_append, List.foldl_cons,
    List.foldl_nil, hφ.map_gmul, hφ.map_one]
  ring

end ReadsRing

/-! ## The primitive element -/

theorem alphaPow_mul (m n : Nat) : alphaPow (m * n) = gpow (alphaPow m) n := by
  obtain ⟨R, _, φ, hφ⟩ := exists_readsRing
  exact hφ.injective (by rw [hφ.map_gpow, hφ.map_alphaPow, hφ.map_alphaPow, pow_mul])

theorem alphaPow_255 : alphaPow 255 = 1 := by
  rw [show 255 = 15 * 17 from rfl, alphaPow_mul]
  decide +kernel

/-- α is primitive: no proper divisor of 255 is the order of α (R101). -/
theorem ReadsRing.orderOf_alpha {R : Type} [CommRing R] {φ : Byte → R} (hφ : ReadsRing φ) :
    orderOf (φ Config.rsAlpha) = 255 := by
  have hne : ∀ m ∈ [(5, 17), (3, 17), (1, 15)], gpow (alphaPow m.1) m.2 ≠ 1 := by decide +kernel
  refine orderOf_eq_of_pow_and_pow_div_prime (by decide) ?_ fun p hp hdvd => ?_
  · rw [← hφ.map_alphaPow, alphaPow_255, hφ.map_one]
  · have hp3 : p = 3 ∨ p = 5 ∨ p = 17 := by
      have hmem : p ∈ Nat.primeFactorsList 255 := (Nat.mem_primeFactorsList (by decide)).2 ⟨hp, hdvd⟩
      rwa [show Nat.primeFactorsList 255 = [3, 5, 17] by simp, List.mem_cons, List.mem_pair] at hmem
    rw [← hφ.map_alphaPow, ← hφ.map_one, hφ.injective.ne_iff]
    obtain rfl | rfl | rfl := hp3
    · exact alphaPow_mul 5 17 ▸ hne (5, 17) (by decide)
    · exact alphaPow_mul 3 17 ▸ hne (3, 17) (by decide)
    · exact alphaPow_mul 1 15 ▸ hne (1, 15) (by decide)

theorem alphaPow_injOn : Set.InjOn alphaPow (Set.Iio 255) := by
  obtain ⟨R, _, φ, hφ⟩ := exists_readsRing
  intro i hi k hk h
  have hpow := congrArg φ h
  rw [hφ.map_alphaPow, hφ.map_alphaPow] at hpow
  rw [← hφ.orderOf_alpha] at hi hk
  exact pow_injOn_Iio_orderOf hi hk hpow

theorem alphaPow_ne_zero (k : Nat) : alphaPow k ≠ 0 := by
  obtain ⟨R, _, φ, hφ⟩ := exists_readsRing
  intro h
  have hpow : φ (alphaPow k) ^ 255 = 1 := by
    rw [hφ.map_alphaPow, pow_right_comm, ← hφ.map_alphaPow 255, alphaPow_255, hφ.map_one, one_pow]
  rw [h, hφ.map_zero, zero_pow (by decide)] at hpow
  exact hφ.one_ne_zero hpow.symm

/-- Every byte but 0 is a power of α: there are 255 of both. -/
theorem exists_alphaPow_eq {a : Byte} (ha : a ≠ 0) : ∃ k, alphaPow k = a := by
  have hsub : (Finset.range 255).image alphaPow ⊆ Finset.univ.erase 0 := fun x hx => by
    obtain ⟨k, -, rfl⟩ := Finset.mem_image.1 hx
    exact Finset.mem_erase.2 ⟨alphaPow_ne_zero k, Finset.mem_univ _⟩
  have hcard : (Finset.univ.erase (0 : Byte)).card ≤ ((Finset.range 255).image alphaPow).card := by
    rw [Finset.card_image_of_injOn (by rw [Finset.coe_range]; exact alphaPow_injOn), Finset.card_range,
      Finset.card_erase_of_mem (Finset.mem_univ _), Finset.card_univ,
      ← FinEnum.card_eq_fintypeCard, FinEnum.card_bitVec]
    norm_num
  have hmem : a ∈ (Finset.range 255).image alphaPow := by
    rw [Finset.eq_of_subset_of_card_le hsub hcard]
    exact Finset.mem_erase.2 ⟨ha, Finset.mem_univ _⟩
  obtain ⟨k, -, hk⟩ := Finset.mem_image.1 hmem
  exact ⟨k, hk⟩

/-! ## The bytes as a field -/

theorem gmul_ginv {a : Byte} (h : a ≠ 0) : gmul a (ginv a) = 1 := by
  obtain ⟨R, _, φ, hφ⟩ := exists_readsRing
  obtain ⟨k, rfl⟩ := exists_alphaPow_eq h
  refine hφ.injective ?_
  rw [hφ.map_gmul, hφ.map_ginv, ← pow_succ', hφ.map_alphaPow, pow_right_comm, ← hφ.map_alphaPow 255, alphaPow_255,
    hφ.map_one, one_pow]

theorem ginv_zero : ginv 0 = 0 := by
  obtain ⟨R, _, φ, hφ⟩ := exists_readsRing
  exact hφ.injective (by rw [hφ.map_ginv, hφ.map_zero, zero_pow (by decide)])

/-- The bytes with XOR, `gmul` and `ginv`. -/
abbrev byteField : Field Byte :=
  @Field.ofMinimalAxioms Byte ⟨(· ^^^ ·)⟩ ⟨gmul⟩ ⟨id⟩ ⟨ginv⟩ ⟨0⟩ ⟨1⟩ BitVec.xor_assoc (fun _ => BitVec.zero_xor)
    (fun _ => BitVec.xor_self) gmul_assoc gmul_comm one_gmul (fun _ => gmul_ginv) ginv_zero gmul_xor_right
    ⟨0, 1, by decide⟩

theorem exists_readsField : ∃ (K : Type) (_ : Field K) (φ : Byte → K), ReadsRing φ :=
  ⟨Byte, byteField, id,
    @ReadsRing.mk Byte byteField.toCommRing id (fun _ _ h => h) rfl (fun _ _ => rfl) (fun _ _ => rfl)⟩

theorem ReadsRing.map_ginv_eq_inv {K : Type} [Field K] {φ : Byte → K} (hφ : ReadsRing φ) {a : Byte} (ha : a ≠ 0) :
    φ (ginv a) = (φ a)⁻¹ :=
  eq_inv_of_mul_eq_one_right (by rw [← hφ.map_gmul, gmul_ginv ha, hφ.map_one])

end Sys2Proof.Machine
end

section
/-!
SUPPORT. Byte sequences as polynomials, highest power first, and the check bytes (42_reed_solomon.md R102, R103): the
division leaves the value at a root of the generator unchanged.
-/

namespace Sys2Proof.Machine

variable {K : Type} [Field K] {φ : Byte → K}

/-! ## Values of a polynomial -/

theorem polyEval_cons (b : Byte) (c : List Byte) (x : Byte) :
    polyEval (b :: c) x = c.foldl (fun acc b => gmul acc x ^^^ b) b := by
  rw [polyEval, List.foldl_cons, zero_gmul]
  exact congrArg (c.foldl _) BitVec.zero_xor

namespace ReadsRing

variable (hφ : ReadsRing φ)
include hφ

theorem map_polyEval_nil (x : Byte) : φ (polyEval [] x) = 0 := hφ.map_zero

theorem map_foldl_horner (c : List Byte) (x a : Byte) :
    φ (c.foldl (fun acc b => gmul acc x ^^^ b) a) = φ a * φ x ^ c.length + φ (polyEval c x) := by
  induction c generalizing a with
  | nil => rw [hφ.map_polyEval_nil, List.length_nil, pow_zero, mul_one, add_zero, List.foldl_nil]
  | cons b c ih =>
    rw [List.foldl_cons, ih, polyEval_cons, ih b, hφ.map_xor, hφ.map_gmul, List.length_cons]
    ring

theorem map_polyEval_cons (b : Byte) (c : List Byte) (x : Byte) :
    φ (polyEval (b :: c) x) = φ b * φ x ^ c.length + φ (polyEval c x) := by
  rw [polyEval_cons, hφ.map_foldl_horner]

theorem map_polyEval_append (c d : List Byte) (x : Byte) :
    φ (polyEval (c ++ d) x) = φ (polyEval c x) * φ x ^ d.length + φ (polyEval d x) := by
  rw [polyEval, List.foldl_append, hφ.map_foldl_horner]
  rfl

/-- The value as a sum over the positions of the word. -/
theorem map_polyEval (c : List Byte) (x : Byte) :
    φ (polyEval c x) = ∑ i ∈ Finset.range c.length, φ (c.getD i 0) * φ x ^ (c.length - 1 - i) := by
  induction c with
  | nil => simpa using hφ.map_polyEval_nil x
  | cons b c ih =>
    rw [hφ.map_polyEval_cons, ih, List.length_cons, Finset.sum_range_succ', add_comm]
    congr 1
    exact Finset.sum_congr rfl fun i hi => by
      rw [List.getD_cons_succ, show c.length + 1 - 1 - (i + 1) = c.length - 1 - i by omega]

theorem map_polyEval_replicate_zero (n : Nat) (x : Byte) : φ (polyEval (List.replicate n 0) x) = 0 := by
  induction n with
  | zero => exact hφ.map_polyEval_nil x
  | succ n ih => rw [List.replicate_succ, hφ.map_polyEval_cons, hφ.map_zero, ih, zero_mul, add_zero]

/-- Coefficientwise multiples have the multiple as value. -/
theorem map_polyEval_map {f : Byte → Byte} {k : K} (hf : ∀ b, φ (f b) = k * φ b) (c : List Byte) (x : Byte) :
    φ (polyEval (c.map f) x) = k * φ (polyEval c x) := by
  induction c with
  | nil => rw [List.map_nil, hφ.map_polyEval_nil, mul_zero]
  | cons b c ih =>
    rw [List.map_cons, hφ.map_polyEval_cons, hf, ih, hφ.map_polyEval_cons, List.length_map]
    ring

theorem map_polyEval_zipWith_xor {c d : List Byte} (h : c.length = d.length) (x : Byte) :
    φ (polyEval (List.zipWith (· ^^^ ·) c d) x) = φ (polyEval c x) + φ (polyEval d x) := by
  induction c generalizing d with
  | nil => rw [List.length_eq_zero_iff.1 h.symm, List.zipWith_nil_left, hφ.map_polyEval_nil, add_zero]
  | cons b c ih =>
    obtain _ | ⟨a, d⟩ := d
    · cases h
    · have hcd : c.length = d.length := Nat.succ.inj h
      rw [List.zipWith_cons_cons, hφ.map_polyEval_cons, ih hcd, hφ.map_xor, hφ.map_polyEval_cons,
        hφ.map_polyEval_cons, List.length_zipWith, hcd, min_self]
      ring

/-- `mulLinear` multiplies by `x - a`, which is `x + a`. -/
theorem map_polyEval_mulLinear (g : List Byte) (a x : Byte) :
    φ (polyEval (mulLinear g a) x) = φ (polyEval g x) * (φ x + φ a) := by
  rw [mulLinear, hφ.map_polyEval_zipWith_xor (by simp), hφ.map_polyEval_append, hφ.map_polyEval_cons,
    hφ.map_polyEval_cons, hφ.map_polyEval_map (hφ.map_gmul a), hφ.map_polyEval_nil, hφ.map_zero,
    List.length_singleton]
  ring

end ReadsRing

theorem mulLinear_one_cons (g : List Byte) (a : Byte) :
    ∃ g', mulLinear (1 :: g) a = 1 :: g' ∧ g'.length = g.length + 1 := by
  refine ⟨List.zipWith (· ^^^ ·) (g ++ [0]) ((1 :: g).map (gmul a)), rfl, ?_⟩
  simp

/-- The generator vanishes at its eight roots (R102). -/
theorem isCodeword_genPoly : IsCodeword genPoly := by
  unfold IsCodeword
  decide +kernel

theorem genPoly_eq : genPoly = [0x01, 0xFF, 0x0B, 0x51, 0x36, 0xEF, 0xAD, 0xC8, 0x18] := by
  decide

/-- Settles O21: closed facts, of which α^255 = 1 goes by the factors of 255. -/
theorem generatorAndFieldValues : Obligations.GeneratorAndFieldValues := by
  unfold Obligations.GeneratorAndFieldValues
  exact ⟨genPoly_eq, by decide +kernel, alphaPow_255, by decide, by decide, by decide, by decide⟩

/-! ## The division -/

@[simp] theorem length_xorFront (t u : List Byte) : (xorFront t u).length = t.length := by
  induction t generalizing u with
  | nil => cases u <;> rfl
  | cons a t ih => cases u <;> simp [xorFront, ih]

theorem length_divideSteps (g : List Byte) (n : Nat) (rem : List Byte) :
    (divideSteps g n rem).length = rem.length - n := by
  induction n generalizing rem with
  | zero => rfl
  | succ n ih =>
    cases rem with
    | nil => simp [divideSteps]
    | cons c rest => simp [divideSteps, ih]

/-- XORing into the front adds the multiple by the power of `x` that the rest counts. -/
theorem ReadsRing.map_polyEval_xorFront (hφ : ReadsRing φ) {t u : List Byte} (h : u.length ≤ t.length) (x : Byte) :
    φ (polyEval (xorFront t u) x) =
      φ (polyEval t x) + φ (polyEval u x) * φ x ^ (t.length - u.length) := by
  induction t generalizing u with
  | nil => rw [List.length_eq_zero_iff.1 (Nat.le_zero.1 h), xorFront, hφ.map_polyEval_nil, zero_mul, add_zero]
  | cons a t ih =>
    obtain _ | ⟨b, u⟩ := u
    · rw [xorFront, hφ.map_polyEval_nil, zero_mul, add_zero]
    · have hut : u.length ≤ t.length := Nat.le_of_succ_le_succ h
      rw [xorFront, hφ.map_polyEval_cons, length_xorFront, ih hut, hφ.map_xor, hφ.map_polyEval_cons,
        hφ.map_polyEval_cons, List.length_cons, List.length_cons, Nat.add_sub_add_right]
      have hpow : φ x ^ t.length = φ x ^ u.length * φ x ^ (t.length - u.length) := by
        rw [← pow_add, Nat.add_sub_cancel' hut]
      rw [hpow]
      ring

/-- At a root of the divisor, whose leading coefficient is 1, the remainder has the value of the dividend. -/
theorem ReadsRing.map_polyEval_divideSteps (hφ : ReadsRing φ) {g : List Byte} {x : Byte}
    (hroot : polyEval (1 :: g) x = 0) {n : Nat} {rem : List Byte} (h : n + g.length ≤ rem.length) :
    φ (polyEval (divideSteps g n rem) x) = φ (polyEval rem x) := by
  have := hφ.charTwo
  have hg : φ (polyEval g x) = φ x ^ g.length := by
    rw [← CharTwo.add_eq_zero, ← (hφ.map_eq_zero_iff _).2 hroot, hφ.map_polyEval_cons, hφ.map_one, one_mul, add_comm]
  induction n generalizing rem with
  | zero => rfl
  | succ n ih =>
    obtain _ | ⟨c, rest⟩ := rem
    · simp at h
    · have hrest : n + g.length ≤ rest.length := by simp only [List.length_cons] at h; omega
      have hmul : ∀ b, φ (gmul b c) = φ c * φ b := fun b => by rw [hφ.map_gmul, mul_comm]
      rw [divideSteps, ih (by rwa [length_xorFront]), hφ.map_polyEval_xorFront (by rw [List.length_map]; omega),
        hφ.map_polyEval_map hmul, hg, hφ.map_polyEval_cons, List.length_map, mul_assoc, ← pow_add,
        show g.length + (rest.length - g.length) = rest.length by omega, add_comm]

theorem xorFront_replicate_zero (m : Nat) {u : List Byte} (hu : ∀ b ∈ u, b = 0) :
    xorFront (List.replicate m 0) u = List.replicate m 0 := by
  induction m generalizing u with
  | zero => cases u <;> rfl
  | succ m ih =>
    obtain _ | ⟨b, u⟩ := u
    · rfl
    · obtain ⟨rfl, hrest⟩ := List.forall_mem_cons.1 hu
      exact congrArg (List.cons 0) (ih hrest)

theorem divideSteps_replicate_zero (g : List Byte) (n m : Nat) :
    divideSteps g n (List.replicate (n + m) 0) = List.replicate m 0 := by
  induction n with
  | zero => rw [Nat.zero_add]; rfl
  | succ n ih =>
    have hg : ∀ b ∈ g.map fun b => gmul b 0, b = 0 := List.forall_mem_map.2 fun b _ => gmul_zero b
    rw [Nat.succ_add, List.replicate_succ, divideSteps, xorFront_replicate_zero _ hg, ih]

/-! ## The check bytes -/

theorem length_rsEcc (body : List Byte) : (rsEcc body).length = 8 := by
  simp [rsEcc, length_divideSteps, Config.rsNsym]

theorem isCodeword_append_rsEcc (body : List Byte) : IsCodeword (body ++ rsEcc body) := by
  intro j hj
  obtain ⟨K, _, φ, hφ⟩ := exists_readsField
  have := hφ.charTwo
  have hroot : polyEval (1 :: genPoly.tail) (alphaPow j) = 0 := isCodeword_genPoly j hj
  have hlen : body.length + genPoly.tail.length ≤ (body ++ List.replicate Config.rsNsym 0).length := by
    rw [genPoly_eq]; simp [Config.rsNsym]
  rw [← hφ.map_eq_zero_iff, hφ.map_polyEval_append, length_rsEcc, rsEcc, hφ.map_polyEval_divideSteps hroot hlen,
    hφ.map_polyEval_append, Config.rsNsym, hφ.map_polyEval_replicate_zero, List.length_replicate, add_zero,
    CharTwo.add_self_eq_zero]

theorem rsEcc_replicate_zero (n : Nat) : rsEcc (List.replicate n 0) = List.replicate 8 0 := by
  rw [rsEcc, List.replicate_append_replicate, List.length_replicate, divideSteps_replicate_zero, Config.rsNsym]

/-- Settles O22: the remainder has the body's value at each root of the generator. -/
theorem checkBytesMakeCodeword : Obligations.CheckBytesMakeCodeword := by
  unfold Obligations.CheckBytesMakeCodeword
  exact ⟨fun body => ⟨length_rsEcc body, isCodeword_append_rsEcc body⟩, rsEcc_replicate_zero⟩

end Sys2Proof.Machine
end

section
/-!
SUPPORT. `solve` finds the solution of linear equations over the field whenever there is exactly one: a step of the
elimination exchanges the rows for a pivot, which gives the first unknown from the others, and rows in the others.
-/

namespace Sys2Proof.Machine

/-! ## Sums of products -/

theorem foldl_xor_eq (l : List Byte) (a : Byte) : l.foldl (· ^^^ ·) a = a ^^^ l.foldl (· ^^^ ·) 0 := by
  induction l generalizing a with
  | nil => exact BitVec.xor_zero.symm
  | cons b l ih =>
    have hb : l.foldl (· ^^^ ·) (0 ^^^ b) = b ^^^ l.foldl (· ^^^ ·) 0 := by rw [ih (0 ^^^ b)]; simp
    rw [List.foldl_cons, ih, List.foldl_cons, hb, BitVec.xor_assoc]

theorem dot_cons_cons (a b : Byte) (as bs : List Byte) : dot (a :: as) (b :: bs) = gmul a b ^^^ dot as bs := by
  rw [dot, List.zipWith_cons_cons, List.foldl_cons, foldl_xor_eq, dot]
  exact congrArg (· ^^^ _) BitVec.zero_xor

theorem dot_nil_left (b : List Byte) : dot [] b = 0 := by rw [dot, List.zipWith_nil_left, List.foldl_nil]

theorem dot_nil_right (a : List Byte) : dot a [] = 0 := by rw [dot, List.zipWith_nil_right, List.foldl_nil]

/-- Coefficients without an unknown do not count. -/
theorem dot_take_length (a b : List Byte) : dot (a.take b.length) b = dot a b := by
  induction b generalizing a with
  | nil => rw [dot_nil_right, dot_nil_right]
  | cons y b ih =>
    cases a with
    | nil => rfl
    | cons x a => rw [List.length_cons, List.take_succ_cons, dot_cons_cons, dot_cons_cons, ih]

/-- A row without its leading coefficient, with a multiple of another added to it: a step of the elimination. -/
def addMultiple (h : Byte) (p t : List Byte) : List Byte := List.zipWith (· ^^^ ·) t (p.map (gmul h))

theorem getD_addMultiple (h : Byte) {p t : List Byte} (hlen : t.length = p.length) (n : Nat) :
    (addMultiple h p t).getD n 0 = t.getD n 0 ^^^ gmul h (p.getD n 0) := by
  unfold addMultiple
  simp only [List.getD_eq_getElem?_getD, List.getElem?_zipWith, List.getElem?_map]
  by_cases hn : n < t.length
  · rw [List.getElem?_eq_getElem hn, List.getElem?_eq_getElem (hlen ▸ hn)]
    rfl
  · rw [List.getElem?_eq_none (by omega), List.getElem?_eq_none (by omega)]
    exact (congrArg (0 ^^^ ·) (gmul_zero h)).symm

namespace ReadsRing

variable {K : Type} [Field K] {φ : Byte → K} (hφ : ReadsRing φ)
include hφ

theorem map_dot_cons_cons (a b : Byte) (as bs : List Byte) :
    φ (dot (a :: as) (b :: bs)) = φ a * φ b + φ (dot as bs) := by
  rw [dot_cons_cons, hφ.map_xor, hφ.map_gmul]

theorem map_dot_map_gmul (a : Byte) (p x : List Byte) : φ (dot (p.map (gmul a)) x) = φ a * φ (dot p x) := by
  induction p generalizing x with
  | nil => rw [List.map_nil, dot_nil_left, hφ.map_zero, mul_zero]
  | cons b p ih =>
    cases x with
    | nil => rw [dot_nil_right, dot_nil_right, hφ.map_zero, mul_zero]
    | cons y x =>
      rw [List.map_cons, hφ.map_dot_cons_cons, hφ.map_dot_cons_cons, ih, hφ.map_gmul]
      ring

theorem map_dot_addMultiple (h : Byte) {p t : List Byte} (hlen : t.length = p.length) (x : List Byte) :
    φ (dot (addMultiple h p t) x) = φ (dot t x) + φ h * φ (dot p x) := by
  rw [← hφ.map_dot_map_gmul, addMultiple]
  replace hlen : t.length = (p.map (gmul h)).length := by rw [hlen, List.length_map]
  generalize p.map (gmul h) = q at hlen
  induction t generalizing q x with
  | nil => rw [List.length_eq_zero_iff.1 hlen.symm, List.zipWith_nil_left, dot_nil_left, hφ.map_zero, add_zero]
  | cons b t ih =>
    obtain _ | ⟨c, q⟩ := q
    · cases hlen
    · cases x with
      | nil => rw [dot_nil_right, dot_nil_right, dot_nil_right, hφ.map_zero, add_zero]
      | cons y x =>
        rw [List.zipWith_cons_cons, hφ.map_dot_cons_cons, ih _ _ (Nat.succ.inj hlen), hφ.map_dot_cons_cons,
          hφ.map_dot_cons_cons, hφ.map_xor]
        ring

end ReadsRing

/-! ## A step of the elimination -/

/-- `x` solves the equation of the row, which is its coefficients and then its right side. -/
def Solves (x row : List Byte) : Prop := dot row x = row.getD x.length 0

/-- The first unknown from the others, by a row whose leading coefficient, 1, is left out. -/
def backSubstitute (p x : List Byte) : Byte := p.getD x.length 0 ^^^ dot p x

/-- The pivot without its leading coefficient, divided by it. -/
def normalized (a : Byte) (q : List Byte) : List Byte := q.map (gmul (ginv a))

theorem ReadsRing.map_backSubstitute_normalized {K : Type} [Field K] {φ : Byte → K} (hφ : ReadsRing φ) {a : Byte}
    (ha : a ≠ 0) (q x : List Byte) :
    φ (backSubstitute (normalized a q) x) = (φ a)⁻¹ * (φ (q.getD x.length 0) + φ (dot q x)) := by
  have hget : (normalized a q).getD x.length 0 = gmul (ginv a) (q.getD x.length 0) := by
    conv_lhs => rw [← gmul_zero (ginv a)]
    exact List.getD_map q 0 (gmul (ginv a))
  rw [backSubstitute, hφ.map_xor, hget, hφ.map_gmul, normalized, hφ.map_dot_map_gmul, hφ.map_ginv_eq_inv ha]
  ring

/-- The pivot's equation gives the first unknown. -/
theorem solves_pivot_iff {a : Byte} (ha : a ≠ 0) (q x : List Byte) (y : Byte) :
    Solves (y :: x) (a :: q) ↔ y = backSubstitute (normalized a q) x := by
  obtain ⟨K, _, φ, hφ⟩ := exists_readsField
  have := hφ.charTwo
  have ha' : φ a ≠ 0 := (hφ.map_eq_zero_iff a).not.2 ha
  rw [Solves, List.length_cons, List.getD_cons_succ, ← hφ.injective.eq_iff, ← hφ.injective.eq_iff,
    hφ.map_backSubstitute_normalized ha, hφ.map_dot_cons_cons, eq_inv_mul_iff_mul_eq₀ ha',
    CharTwo.add_eq_iff_eq_add]

/-- With the first unknown so given, another row's equation becomes one in the other unknowns. -/
theorem solves_row_iff {p t : List Byte} (hlen : t.length = p.length) (h : Byte) (x : List Byte) :
    Solves (backSubstitute p x :: x) (h :: t) ↔ Solves x (addMultiple h p t) := by
  obtain ⟨K, _, φ, hφ⟩ := exists_readsField
  have := hφ.charTwo
  rw [Solves, Solves, List.length_cons, List.getD_cons_succ, getD_addMultiple h hlen, ← hφ.injective.eq_iff,
    ← hφ.injective.eq_iff, hφ.map_dot_cons_cons, hφ.map_dot_addMultiple h hlen, backSubstitute, hφ.map_xor,
    hφ.map_xor, hφ.map_gmul, mul_add, ← CharTwo.add_eq_iff_eq_add]
  ring_nf

/-- The elimination of the first unknown from the rows other than the pivot. -/
def eliminated (p : List Byte) (others : List (List Byte)) : List (List Byte) :=
  others.map fun row => addMultiple (row.headD 0) p row.tail

/-- The equations hold exactly when the first unknown is what the pivot gives and the others solve what is left. -/
theorem solves_all_iff {n : Nat} {a y : Byte} {q x : List Byte} {others : List (List Byte)} (ha : a ≠ 0)
    (hq : q.length = n + 1) (hlen : ∀ row ∈ others, row.length = n + 2) :
    (∀ row ∈ (a :: q) :: others, Solves (y :: x) row) ↔
      y = backSubstitute (normalized a q) x ∧ ∀ row ∈ eliminated (normalized a q) others, Solves x row := by
  rw [List.forall_mem_cons, solves_pivot_iff ha, eliminated, List.forall_mem_map]
  refine and_congr_right fun hy => forall₂_congr fun row hrow => ?_
  obtain _ | ⟨h, t⟩ := row
  · cases hlen _ hrow
  · rw [hy]
    exact solves_row_iff (by rw [normalized, List.length_map, hq]; exact Nat.succ.inj (hlen _ hrow)) h x

/-! ## The elimination -/

theorem takePivot_eq_none {rows : List (List Byte)} (h : takePivot rows = none) :
    ∀ row ∈ rows, row.headD 0 = 0 := by
  induction rows with
  | nil => exact List.forall_mem_nil _
  | cons row rest ih =>
    rw [takePivot] at h
    split at h
    · cases h
    · next hrow =>
      cases hrest : takePivot rest with
      | none => exact List.forall_mem_cons.2 ⟨by simpa using hrow, ih hrest⟩
      | some p => rw [hrest] at h; cases h

/-- A pivot is a row with a leading coefficient, and the rows are the pivot and the others. -/
theorem takePivot_eq_some {rows others : List (List Byte)} {pivot : List Byte}
    (h : takePivot rows = some (pivot, others)) : pivot.headD 0 ≠ 0 ∧ rows.Perm (pivot :: others) := by
  induction rows generalizing others with
  | nil => cases h
  | cons row rest ih =>
    rw [takePivot] at h
    split at h
    · next hrow =>
      cases h
      exact ⟨by simpa using hrow, .refl _⟩
    · cases hrest : takePivot rest with
      | none => rw [hrest] at h; cases h
      | some po =>
        obtain ⟨p, o⟩ := po
        rw [hrest] at h
        cases h
        obtain ⟨hhead, hperm⟩ := ih hrest
        exact ⟨hhead, (hperm.cons row).trans (.swap _ _ _)⟩

/-- Without a pivot the first unknown is free. -/
theorem solves_cons_of_headD_eq_zero {row : List Byte} (h : row.headD 0 = 0) (y z : Byte) (x : List Byte) :
    Solves (y :: x) row ↔ Solves (z :: x) row := by
  obtain _ | ⟨b, t⟩ := row
  · rw [Solves, Solves, dot_nil_left, dot_nil_left]
    rfl
  · obtain rfl : b = 0 := h
    rw [Solves, Solves, dot_cons_cons, dot_cons_cons, zero_gmul, zero_gmul]
    rfl

theorem solve_succ_of_pivot {n : Nat} {rows others : List (List Byte)} {a : Byte} {q x : List Byte}
    (hpivot : takePivot rows = some (a :: q, others)) (hx : x.length = n)
    (h : solve n (eliminated (normalized a q) others) = some x) :
    solve (n + 1) rows = some (backSubstitute (normalized a q) x :: x) := by
  simp only [eliminated, addMultiple, normalized] at h
  simp only [solve, hpivot, List.headD_cons, List.map_cons, List.tail_cons, h]
  rw [backSubstitute, normalized, ← hx, dot_take_length]

/-- Equations with exactly one solution are solved. -/
theorem solve_eq_some_of_unique {n : Nat} {rows : List (List Byte)} {x : List Byte}
    (hrows : ∀ row ∈ rows, row.length = n + 1) (hx : x.length = n)
    (h : ∀ y, y.length = n → ((∀ row ∈ rows, Solves y row) ↔ y = x)) : solve n rows = some x := by
  induction n generalizing rows x with
  | zero =>
    obtain rfl := List.length_eq_zero_iff.1 hx
    have hzero : ∀ row ∈ rows, row.headD 0 = 0 := fun row hrow => by
      have := (h [] rfl).2 rfl row hrow
      rw [Solves, dot_nil_right] at this
      cases row with
      | nil => rfl
      | cons b t => exact this.symm
    rw [solve, if_pos (by simpa using hzero)]
  | succ n ih =>
    obtain _ | ⟨x₀, x⟩ := x
    · cases hx
    have hx' : x.length = n := Nat.succ.inj hx
    have hsolved := (h _ hx).2 rfl
    cases hpivot : takePivot rows with
    | none =>
      have hfree : ∀ row ∈ rows, Solves ((x₀ ^^^ 1) :: x) row := fun row hrow =>
        (solves_cons_of_headD_eq_zero (takePivot_eq_none hpivot row hrow) _ _ x).1 (hsolved row hrow)
      have hsame : x₀ ^^^ 1 = x₀ := (List.cons.inj ((h ((x₀ ^^^ 1) :: x) hx).1 hfree)).1
      simp at hsame
    | some po =>
      obtain ⟨pivot, others⟩ := po
      obtain ⟨ha, hperm⟩ := takePivot_eq_some hpivot
      have hlen : ∀ row ∈ pivot :: others, row.length = n + 2 := fun row hrow => hrows row (hperm.mem_iff.2 hrow)
      obtain ⟨hlen₀, hothers⟩ := List.forall_mem_cons.1 hlen
      obtain _ | ⟨a, q⟩ := pivot
      · cases hlen₀
      have ha : a ≠ 0 := ha
      have hq : q.length = n + 1 := Nat.succ.inj hlen₀
      have hall (y : Byte) (z : List Byte) := solves_all_iff (y := y) (x := z) ha hq hothers
      simp only [← hperm.mem_iff] at hall
      obtain ⟨hx₀, hleft⟩ := (hall x₀ x).1 hsolved
      rw [hx₀]
      refine solve_succ_of_pivot hpivot hx' (ih ?_ hx' fun z hz => ⟨fun hsolves => ?_, fun hz => hz ▸ hleft⟩)
      · exact List.forall_mem_map.2 fun row hrow => by
          simp [addMultiple, normalized, hq, hothers row hrow]
      · exact (List.cons.inj ((h (_ :: z) (congrArg Nat.succ hz)).1 ((hall _ z).2 ⟨rfl, hsolves⟩))).2

end Sys2Proof.Machine
end

section
/-!
SUPPORT. Two facts on power sums over a field, for distinct points: values all of whose first moments vanish are 0, and
a polynomial, as a byte sequence, is known from as many values as it has coefficients.
-/

namespace Sys2Proof.Machine

variable {K : Type} [Field K] {s : Finset Nat} {X : Nat → K}

/-- As many vanishing moments as points leave no value: test against the Lagrange basis. -/
theorem eq_zero_of_moments_eq_zero (hX : Set.InjOn X s) {z : Nat → K} {m : Nat} (hm : s.card ≤ m)
    (h : ∀ j < m, ∑ i ∈ s, z i * X i ^ j = 0) : ∀ i ∈ s, z i = 0 := by
  intro i hi
  have hdeg : (Lagrange.basis s X i).natDegree < m := by
    have := Finset.card_pos.2 ⟨i, hi⟩
    rw [Lagrange.natDegree_basis hX hi]
    omega
  have hsum : ∑ k ∈ s, z k * (Lagrange.basis s X i).eval (X k) = 0 := by
    simp only [Polynomial.eval_eq_sum_range' hdeg, Finset.mul_sum]
    rw [Finset.sum_comm]
    refine Finset.sum_eq_zero fun j hj => ?_
    have hj0 := h j (Finset.mem_range.1 hj)
    calc ∑ k ∈ s, z k * ((Lagrange.basis s X i).coeff j * X k ^ j)
        = (Lagrange.basis s X i).coeff j * ∑ k ∈ s, z k * X k ^ j := by
          rw [Finset.mul_sum]
          exact Finset.sum_congr rfl fun k _ => by ring
      _ = 0 := by rw [hj0, mul_zero]
  rwa [Finset.sum_eq_single i
    (fun k hk hki => by rw [Lagrange.eval_basis_of_ne hki.symm hk, mul_zero])
    (fun h => absurd hi h), Lagrange.eval_basis_self hX hi, mul_one] at hsum

/-- A polynomial with as many roots as coefficients has only zero coefficients. -/
theorem eq_zero_of_sum_pow_eq_zero (hX : Set.InjOn X s) {f : Nat → K} {m : Nat} (hm : m ≤ s.card)
    (h : ∀ i ∈ s, ∑ k ∈ Finset.range m, f k * X i ^ k = 0) : ∀ k < m, f k = 0 := by
  intro k hk
  have hP : ∑ j ∈ Finset.range m, Polynomial.C (f j) * Polynomial.X ^ j = 0 := by
    refine Polynomial.eq_zero_of_degree_lt_of_eval_index_eq_zero s hX ?_ fun i hi => ?_
    · refine lt_of_lt_of_le (Polynomial.mem_degreeLT.1 (Submodule.sum_mem _ fun j hj => ?_)) (Nat.cast_le.2 hm)
      exact Polynomial.mem_degreeLT.2 ((Polynomial.degree_C_mul_X_pow_le j _).trans_lt
        (Nat.cast_lt.2 (Finset.mem_range.1 hj)))
    · simpa [Polynomial.eval_finsetSum] using h i hi
  have hcoeff := congrArg (Polynomial.coeff · k) hP
  simpa [Polynomial.finsetSum_coeff, Polynomial.coeff_C_mul_X_pow, hk] using hcoeff

/-- Two polynomials with the same values at as many points as they have coefficients are the same. -/
theorem ReadsRing.eq_of_polyEval_eq {φ : Byte → K} (hφ : ReadsRing φ) {x : Nat → Byte}
    (hx : Set.InjOn x s) {a b : List Byte} (hab : a.length = b.length) (hlen : b.length ≤ s.card)
    (h : ∀ i ∈ s, polyEval a (x i) = polyEval b (x i)) : a = b := by
  refine List.ext_getElem hab fun k hka hkb => ?_
  have hzero : φ (a.getD (b.length - 1 - (b.length - 1 - k)) 0)
      - φ (b.getD (b.length - 1 - (b.length - 1 - k)) 0) = 0 := by
    refine eq_zero_of_sum_pow_eq_zero (X := fun i => φ (x i)) (f := fun k => φ (a.getD (b.length - 1 - k) 0)
      - φ (b.getD (b.length - 1 - k) 0)) (hφ.injective.comp_injOn hx) hlen (fun i hi => ?_) _ (by omega)
    have hi := congrArg φ (h i hi)
    rw [hφ.map_polyEval, hφ.map_polyEval, hab, ← sub_eq_zero, ← Finset.sum_sub_distrib,
      ← Finset.sum_range_reflect] at hi
    rw [← hi]
    refine Finset.sum_congr rfl fun k hk => ?_
    have hk := Finset.mem_range.1 hk
    rw [show b.length - 1 - (b.length - 1 - k) = k by omega, sub_mul]
  rw [show b.length - 1 - (b.length - 1 - k) = k by omega, sub_eq_zero, hφ.injective.eq_iff,
    List.getD_eq_getElem _ _ hka, List.getD_eq_getElem _ _ hkb] at hzero
  exact hzero

end Sys2Proof.Machine
end

section
/-!
SUPPORT. The received word, a codeword and the positions in which they differ; syndromes as power sums of the errors
(42_reed_solomon.md R105); and that two codewords of at most 255 bytes differ in none or in more than eight positions.
-/

namespace Sys2Proof.Machine

variable {K : Type} [Field K] {φ : Byte → K}

/-! ## Locations -/

theorem ReadsRing.map_location (hφ : ReadsRing φ) (n i : Nat) :
    φ (location n i) = φ Config.rsAlpha ^ (n - 1 - i) := hφ.map_alphaPow _

/-- The bytes of a word of at most 255 bytes have distinct location numbers. -/
theorem location_inj {n i k : Nat} (hn : n ≤ 255) (hi : i < n) (hk : k < n) (h : location n i = location n k) :
    i = k := by
  have := alphaPow_injOn (Set.mem_Iio.2 (by omega)) (Set.mem_Iio.2 (by omega)) h
  omega

/-! ## The positions in which two words differ -/

/-- The positions in which `c` differs from `r`, ascending. -/
def differing (c r : List Byte) : List Nat := (List.range r.length).filter fun i => c.getD i 0 != r.getD i 0

/-- The error at a position. -/
def errorAt (c r : List Byte) (i : Nat) : Byte := c.getD i 0 ^^^ r.getD i 0

theorem errorAt_eq_zero_iff {c r : List Byte} {i : Nat} : errorAt c r i = 0 ↔ c.getD i 0 = r.getD i 0 :=
  BitVec.xor_eq_zero_iff

theorem mem_differing {c r : List Byte} {i : Nat} :
    i ∈ differing c r ↔ i < r.length ∧ c.getD i 0 ≠ r.getD i 0 := by
  simp [differing]

theorem errorAt_ne_zero {c r : List Byte} {i : Nat} (h : i ∈ differing c r) : errorAt c r i ≠ 0 :=
  errorAt_eq_zero_iff.not.2 (mem_differing.1 h).2

theorem nodup_differing (c r : List Byte) : (differing c r).Nodup := List.nodup_range.filter _

theorem distance_eq_length_differing {c r : List Byte} (h : c.length = r.length) :
    distance c r = (differing c r).length := by
  have hmap : List.zipWith (· != ·) c r = (List.range r.length).map fun i => c.getD i 0 != r.getD i 0 := by
    refine List.ext_getElem (by simp [h]) fun i hi _ => ?_
    have hir : i < r.length := by simpa [h] using hi
    rw [List.getElem_zipWith, List.getElem_map, List.getElem_range, List.getD_eq_getElem _ _ (h ▸ hir),
      List.getD_eq_getElem _ _ hir]
  rw [distance, hmap, List.filter_map, List.length_map, differing]
  rfl

/-- The difference of two values is a sum over the positions in which the words differ. -/
theorem ReadsRing.map_polyEval_add (hφ : ReadsRing φ) {c r : List Byte} (h : c.length = r.length) (j : Nat) :
    φ (polyEval c (alphaPow j)) + φ (polyEval r (alphaPow j)) =
      ∑ i ∈ (differing c r).toFinset, φ (errorAt c r i) * φ (location r.length i) ^ j := by
  have hsub : (differing c r).toFinset ⊆ Finset.range r.length := fun i hi =>
    Finset.mem_range.2 (mem_differing.1 (List.mem_toFinset.1 hi)).1
  rw [Finset.sum_subset hsub fun i hi hnot => ?_]
  · rw [hφ.map_polyEval, hφ.map_polyEval, h, ← Finset.sum_add_distrib]
    refine Finset.sum_congr rfl fun i _ => ?_
    rw [hφ.map_alphaPow, hφ.map_location, errorAt, hφ.map_xor, add_mul, pow_right_comm]
  · have hsame : c.getD i 0 = r.getD i 0 := by
      by_contra hne
      exact hnot (List.mem_toFinset.2 (mem_differing.2 ⟨Finset.mem_range.1 hi, hne⟩))
    rw [errorAt_eq_zero_iff.2 hsame, hφ.map_zero, zero_mul]

/-! ## Distance between codewords -/

theorem eq_of_differing_eq_nil {c r : List Byte} (h : c.length = r.length) (hnil : differing c r = []) : c = r := by
  refine List.ext_getElem h fun i hic hir => ?_
  by_contra hne
  have : i ∈ differing c r := mem_differing.2 ⟨hir, by
    rwa [List.getD_eq_getElem _ _ hic, List.getD_eq_getElem _ _ hir]⟩
  rw [hnil] at this
  cases this

/-- Two codewords of one length, at most 255, that differ in at most eight positions are the same. -/
theorem codeword_eq_of_distance_le {c d : List Byte} (hlen : c.length = d.length) (hd : d.length ≤ 255)
    (hcw : IsCodeword c) (hdw : IsCodeword d) (hdist : distance c d ≤ 8) : c = d := by
  obtain ⟨K, _, φ, hφ⟩ := exists_readsField
  rw [distance_eq_length_differing hlen] at hdist
  have hX : Set.InjOn (fun i => φ (location d.length i)) (differing c d).toFinset := fun i hi k hk hik =>
    location_inj hd (mem_differing.1 (List.mem_toFinset.1 hi)).1 (mem_differing.1 (List.mem_toFinset.1 hk)).1
      (hφ.injective hik)
  have hzero := eq_zero_of_moments_eq_zero hX (z := fun i => φ (errorAt c d i))
    ((List.toFinset_card_le _).trans hdist) fun j hj => by
      rw [← hφ.map_polyEval_add hlen, hcw j hj, hdw j hj, hφ.map_zero, add_zero]
  refine eq_of_differing_eq_nil hlen (List.eq_nil_iff_forall_not_mem.2 fun i hi => (mem_differing.1 hi).2 ?_)
  have := hzero i (List.mem_toFinset.2 hi)
  exact errorAt_eq_zero_iff.1 ((hφ.map_eq_zero_iff _).1 this)

/-- The triangle inequality, by way of the received word. -/
theorem distance_le_add {c d r : List Byte} (hc : c.length = r.length) (hd : d.length = r.length) :
    distance c d ≤ distance c r + distance d r := by
  rw [distance_eq_length_differing (hc.trans hd.symm), distance_eq_length_differing hc,
    distance_eq_length_differing hd, ← List.length_append]
  refine ((nodup_differing c d).subperm fun i hi => ?_).length_le
  obtain ⟨hid, hne⟩ := mem_differing.1 hi
  have hir : i < r.length := hd ▸ hid
  by_cases h : c.getD i 0 = r.getD i 0
  · exact List.mem_append_right _ (mem_differing.2 ⟨hir, fun h' => hne (h.trans h'.symm)⟩)
  · exact List.mem_append_left _ (mem_differing.2 ⟨hir, h⟩)

/-! ## Syndromes -/

theorem getD_syndromes {j : Nat} (hj : j < 8) (r : List Byte) :
    (syndromes r).getD j 0 = polyEval r (alphaPow j) := by
  have hlen : j < (syndromes r).length := by simpa [syndromes, Config.rsNsym] using hj
  rw [List.getD_eq_getElem _ _ hlen]
  simp [syndromes, Config.rsFcr]

@[simp] theorem length_syndromes (r : List Byte) : (syndromes r).length = 8 := by simp [syndromes, Config.rsNsym]

theorem isCodeword_iff (c : List Byte) : isCodeword c = true ↔ IsCodeword c := by
  simp [isCodeword, syndromes, Config.rsNsym, Config.rsFcr, IsCodeword]

/-- The syndromes of a received word are the power sums of its errors. -/
theorem ReadsRing.map_syndrome (hφ : ReadsRing φ) {c r : List Byte} (h : c.length = r.length) (hc : IsCodeword c)
    {j : Nat} (hj : j < 8) :
    φ ((syndromes r).getD j 0) =
      ∑ i ∈ (differing c r).toFinset, φ (errorAt c r i) * φ (location r.length i) ^ j := by
  rw [← hφ.map_polyEval_add h, hc j hj, hφ.map_zero, zero_add, getD_syndromes hj]

end Sys2Proof.Machine
end

section
/-!
SUPPORT. The errors of a received word (42_reed_solomon.md R105). Under the supposition of as many errors as there are,
the equations of the error locator and of the error values have exactly one solution each, so `solve` finds it.
-/

namespace Sys2Proof.Machine

/-! ## Rows and unknowns listed over one index -/

/-- The equation of a row whose coefficients are listed over `l`, in unknowns listed over `l`. -/
theorem ReadsRing.solves_map_iff {K : Type} [Field K] {φ : Byte → K} (hφ : ReadsRing φ) {l : List Nat}
    (hl : l.Nodup) (f z : Nat → Byte) (y : Byte) :
    Solves (l.map z) (l.map f ++ [y]) ↔ ∑ i ∈ l.toFinset, φ (z i) * φ (f i) = φ y := by
  have hdot : φ (dot (l.map f ++ [y]) (l.map z)) = (l.map fun i => φ (z i) * φ (f i)).sum := by
    clear hl
    induction l with
    | nil => rw [List.map_nil, List.map_nil, dot_nil_right, hφ.map_zero, List.map_nil, List.sum_nil]
    | cons i l ih =>
      rw [List.map_cons, List.map_cons, List.cons_append, hφ.map_dot_cons_cons, ih, List.map_cons, List.sum_cons,
        mul_comm]
  have hget : (l.map f ++ [y]).getD (l.map z).length 0 = y := by
    rw [List.length_map, ← List.length_map (f := f), List.getD_eq_getElem _ _ (by simp),
      List.getElem_concat_length rfl]
  rw [Solves, hget, ← hφ.injective.eq_iff, hdot, List.sum_toFinset _ hl]

/-- Unknowns, one for each element of a list, are a function of the element. -/
theorem exists_eq_map {l : List Nat} (hl : l.Nodup) {x : List Byte} (h : x.length = l.length) :
    ∃ z : Nat → Byte, x = l.map z := by
  refine ⟨fun i => x.getD (l.idxOf i) 0, List.ext_getElem (by simpa using h) fun k hk hkl => ?_⟩
  have hkl' : k < l.length := by simpa using hkl
  rw [List.getElem_map, hl.idxOf_getElem k hkl', List.getD_eq_getElem _ _ hk]

/-! ## A word that can be corrected -/

/-- `c` is a codeword that differs from the received word `r` in at most four bytes, at locations no other byte has. -/
structure Correctable (c r : List Byte) : Prop where
  length_eq : c.length = r.length
  isCodeword : IsCodeword c
  few : (differing c r).length ≤ 4
  location_inj : ∀ k ∈ differing c r, ∀ i < r.length, location r.length i = location r.length k → i = k

theorem Correctable.injOn_location {c r : List Byte} (h : Correctable c r) :
    Set.InjOn (location r.length) (differing c r).toFinset := fun i hi k hk hik =>
  h.location_inj k (List.mem_toFinset.1 hk) i (mem_differing.1 (List.mem_toFinset.1 hi)).1 hik

/-! ## The rows of the locator -/

/-- The row of the locator's equation that starts at syndrome `j`. -/
def locatorRow (synd : List Byte) (u j : Nat) : List Byte :=
  ((synd.drop j).take u).reverse ++ [synd.getD (j + u) 0]

theorem locator_eq (synd : List Byte) (u : Nat) :
    locator synd u = solve u ((List.range (8 - u)).map (locatorRow synd u)) := rfl

theorem locatorRow_eq_map {synd : List Byte} {u j : Nat} (h : j + u ≤ synd.length) :
    locatorRow synd u j = (List.range u).map (fun k => synd.getD (j + (u - 1 - k)) 0) ++ [synd.getD (j + u) 0] := by
  unfold locatorRow
  congr 1
  refine List.ext_getElem (by simp; omega) fun k hk hku => ?_
  have hku' : k < u := by simpa using hku
  rw [List.getElem_map, List.getElem_range, List.getD_eq_getElem _ _ (by omega), List.getElem_reverse,
    List.getElem_take, List.getElem_drop]
  congr 1
  simp
  omega

/-! ## The equations of the locator and of the error values -/

section

variable {K : Type} [Field K] {φ : Byte → K} (hφ : ReadsRing φ) {c r : List Byte} (h : Correctable c r)

include hφ h

/-- The equation from syndrome `j` on is the vanishing of moment `j` of the errors times the locator's values. -/
theorem solves_locatorRow_iff {lam : List Byte} {j : Nat} (hj : j + lam.length < 8) :
    Solves lam (locatorRow (syndromes r) lam.length j) ↔
      ∑ i ∈ (differing c r).toFinset,
        φ (errorAt c r i) * φ (polyEval (1 :: lam) (location r.length i)) * φ (location r.length i) ^ j = 0 := by
  have := hφ.charTwo
  have hlam : lam = (List.range lam.length).map (lam.getD · 0) :=
    List.ext_getElem (by simp) fun k hk _ => by simp [hk]
  have hterm (i : Nat) :
      φ (errorAt c r i) * φ (polyEval (1 :: lam) (location r.length i)) * φ (location r.length i) ^ j =
        (∑ k ∈ Finset.range lam.length,
          φ (lam.getD k 0) * (φ (errorAt c r i) * φ (location r.length i) ^ (j + (lam.length - 1 - k)))) +
        φ (errorAt c r i) * φ (location r.length i) ^ (j + lam.length) := by
    rw [hφ.map_polyEval_cons, hφ.map_one, one_mul, hφ.map_polyEval, mul_add, add_mul, add_comm, Finset.mul_sum,
      Finset.sum_mul]
    congr 1
    · exact Finset.sum_congr rfl fun k _ => by ring
    · ring
  have hsolves := hφ.solves_map_iff (List.nodup_range (n := lam.length))
    (fun k => (syndromes r).getD (j + (lam.length - 1 - k)) 0) (lam.getD · 0) ((syndromes r).getD (j + lam.length) 0)
  rw [← hlam, ← locatorRow_eq_map (by rw [length_syndromes]; omega), List.toFinset_range] at hsolves
  rw [hsolves, Finset.sum_congr rfl fun i _ => hterm i, Finset.sum_add_distrib, Finset.sum_comm,
    ← hφ.map_syndrome h.length_eq h.isCodeword hj, CharTwo.add_eq_zero]
  refine Eq.congr (Finset.sum_congr rfl fun k _ => ?_) rfl
  rw [hφ.map_syndrome h.length_eq h.isCodeword (by omega), Finset.mul_sum]

/-- The equations of the locator hold exactly when the errors' locations are roots. -/
theorem solves_locatorRows_iff {lam : List Byte} (hlam : lam.length = (differing c r).length) :
    (∀ row ∈ (List.range (8 - (differing c r).length)).map (locatorRow (syndromes r) (differing c r).length),
        Solves lam row) ↔
      ∀ i ∈ (differing c r).toFinset, polyEval (1 :: lam) (location r.length i) = 0 := by
  have hfew := h.few
  rw [List.forall_mem_map, ← hlam]
  simp only [List.mem_range]
  rw [forall₂_congr fun j hj => solves_locatorRow_iff hφ h (by omega)]
  refine ⟨fun hmoments i hi => ?_, fun hroots j _ => Finset.sum_eq_zero fun i hi => by
    rw [hroots i hi, hφ.map_zero, mul_zero, zero_mul]⟩
  have hcard : (differing c r).toFinset.card ≤ 8 - lam.length := (List.toFinset_card_le _).trans (by omega)
  have hzero := eq_zero_of_moments_eq_zero (hφ.injective.comp_injOn h.injOn_location) hcard hmoments i hi
  rw [mul_eq_zero, hφ.map_eq_zero_iff, hφ.map_eq_zero_iff] at hzero
  exact hzero.resolve_left (errorAt_ne_zero (List.mem_toFinset.1 hi))

/-- Under the supposition of as many errors as there are, `locator` finds the locator whose roots are the errors'
locations: no other of its length has them all. -/
theorem locator_eq_some {lam : List Byte} (hlam : lam.length = (differing c r).length)
    (hroots : ∀ i ∈ (differing c r).toFinset, polyEval (1 :: lam) (location r.length i) = 0) :
    locator (syndromes r) (differing c r).length = some lam := by
  have hfew := h.few
  rw [locator_eq]
  refine solve_eq_some_of_unique (List.forall_mem_map.2 fun j hj => ?_) hlam fun lam' hlam' => ?_
  · have := List.mem_range.1 hj
    rw [locatorRow_eq_map (by rw [length_syndromes]; omega)]
    simp
  · rw [solves_locatorRows_iff hφ h hlam']
    refine ⟨fun hroots' => ?_, fun heq => heq ▸ hroots⟩
    have hcard : lam.length ≤ (differing c r).toFinset.card := by
      rw [List.toFinset_card_of_nodup (nodup_differing c r), hlam]
    refine hφ.eq_of_polyEval_eq h.injOn_location (hlam'.trans hlam.symm) hcard fun i hi => ?_
    have hval := congrArg φ ((hroots' i hi).trans (hroots i hi).symm)
    rw [hφ.map_polyEval_cons, hφ.map_polyEval_cons, hlam', hlam] at hval
    exact hφ.injective (add_left_cancel hval)

/-- At the errors' positions the error values found are the errors. -/
theorem errorValues_eq_some :
    errorValues r.length (syndromes r) (differing c r) = some ((differing c r).map (errorAt c r)) := by
  have hfew := h.few
  have hnodup := nodup_differing c r
  refine solve_eq_some_of_unique (List.forall_mem_map.2 fun j _ => by simp) (by simp) fun y hy => ?_
  obtain ⟨z, rfl⟩ := exists_eq_map hnodup hy
  have hsolves : ∀ j < 8, Solves ((differing c r).map z)
      ((differing c r).map (fun i => gpow (location r.length i) (Config.rsFcr + j)) ++ [(syndromes r).getD j 0]) ↔
      ∑ i ∈ (differing c r).toFinset, (φ (z i) - φ (errorAt c r i)) * φ (location r.length i) ^ j = 0 := by
    intro j hj
    rw [hφ.solves_map_iff hnodup, hφ.map_syndrome h.length_eq h.isCodeword hj, ← sub_eq_zero,
      ← Finset.sum_sub_distrib]
    refine Eq.congr (Finset.sum_congr rfl fun i _ => ?_) rfl
    rw [hφ.map_gpow, Config.rsFcr, Nat.zero_add, sub_mul]
  rw [List.forall_mem_map]
  simp only [List.mem_range, Config.rsNsym]
  rw [forall₂_congr hsolves, List.map_inj_left]
  refine ⟨fun hmoments i hi => ?_, fun heq j _ => Finset.sum_eq_zero fun i hi => by
    rw [heq i (List.mem_toFinset.1 hi), sub_self, zero_mul]⟩
  have hcard : (differing c r).toFinset.card ≤ 8 := (List.toFinset_card_le _).trans (by omega)
  exact hφ.injective (sub_eq_zero.1 (eq_zero_of_moments_eq_zero (hφ.injective.comp_injOn h.injOn_location) hcard
    hmoments i (List.mem_toFinset.2 hi)))

end

/-! ## The locator that the errors have -/

/-- The product of `x - X` over a set of locations, as a polynomial with leading coefficient 1. -/
theorem ReadsRing.exists_locator {K : Type} [Field K] {φ : Byte → K} (hφ : ReadsRing φ) (n : Nat) (s : Finset Nat) :
    ∃ lam : List Byte, lam.length = s.card ∧
      ∀ x, φ (polyEval (1 :: lam) x) = ∏ i ∈ s, (φ x + φ (location n i)) := by
  induction s using Finset.induction_on with
  | empty => exact ⟨[], rfl, fun x => by
      rw [hφ.map_polyEval_cons, hφ.map_polyEval_nil, hφ.map_one]; simp⟩
  | insert i s hi ih =>
    obtain ⟨lam, hlen, hval⟩ := ih
    obtain ⟨lam', hcons, hlen'⟩ := mulLinear_one_cons lam (location n i)
    refine ⟨lam', by rw [hlen', hlen, Finset.card_insert_of_notMem hi], fun x => ?_⟩
    rw [← hcons, hφ.map_polyEval_mulLinear, hval, Finset.prod_insert hi, mul_comm]

theorem exists_errorLocator (c r : List Byte) : ∃ lam : List Byte, lam.length = (differing c r).length ∧
    ∀ x, polyEval (1 :: lam) x = 0 ↔ ∃ k ∈ differing c r, x = location r.length k := by
  obtain ⟨K, _, φ, hφ⟩ := exists_readsField
  have := hφ.charTwo
  obtain ⟨lam, hlam, hval⟩ := hφ.exists_locator r.length (differing c r).toFinset
  refine ⟨lam, hlam.trans (List.toFinset_card_of_nodup (nodup_differing c r)), fun x => ?_⟩
  rw [← hφ.map_eq_zero_iff, hval, Finset.prod_eq_zero_iff]
  simp only [List.mem_toFinset, CharTwo.add_eq_zero, hφ.injective.eq_iff]

/-- The indices found from the errors' locator are those of the errors. -/
theorem Correctable.errorIndices_eq {c r lam : List Byte} (h : Correctable c r)
    (hroot : ∀ x, polyEval (1 :: lam) x = 0 ↔ ∃ k ∈ differing c r, x = location r.length k) :
    errorIndices r.length lam = differing c r := by
  refine List.filter_congr fun i hi => ?_
  have hir := List.mem_range.1 hi
  rw [Bool.eq_iff_iff, beq_iff_eq, bne_iff_ne, hroot]
  exact ⟨fun ⟨k, hk, hik⟩ => h.location_inj k hk i hir hik ▸ (mem_differing.1 hk).2,
    fun hne => ⟨i, mem_differing.2 ⟨hir, hne⟩, rfl⟩⟩

end Sys2Proof.Machine
end

section
/-!
SUPPORT. The correction (42_reed_solomon.md R105): with the errors found it gives the codeword, and it keeps
nothing that is not a codeword within distance 4.
-/

namespace Sys2Proof.Machine

/-! ## Applying the errors -/

@[simp] theorem length_applyErrors (r : List Byte) (errors : List (Nat × Byte)) :
    (applyErrors r errors).length = r.length := by
  induction errors generalizing r with
  | nil => rfl
  | cons e errors ih => rw [applyErrors, ih, List.length_set]

/-- Each position is changed by its own error. -/
theorem getD_applyErrors {l : List Nat} (hl : l.Nodup) (f : Nat → Byte) (r : List Byte) {p : Nat} (hp : p < r.length) :
    (applyErrors r (l.map fun i => (i, f i))).getD p 0 = if p ∈ l then r.getD p 0 ^^^ f p else r.getD p 0 := by
  induction l generalizing r with
  | nil => rfl
  | cons i l ih =>
    obtain ⟨hi, hl⟩ := List.nodup_cons.1 hl
    rw [List.map_cons, applyErrors, ih hl _ (by rwa [List.length_set])]
    by_cases hpi : i = p
    · subst hpi
      simp [hi, hp]
    · simp [hpi, Ne.symm hpi]

theorem applyErrors_differing {c r : List Byte} (h : c.length = r.length) :
    applyErrors r ((differing c r).zip ((differing c r).map (errorAt c r))) = c := by
  have hzip := List.zip_map' (f := id) (g := errorAt c r) (l := differing c r)
  simp only [List.map_id, id] at hzip
  rw [hzip]
  refine List.ext_getElem (by simp [h]) fun p hp hpc => ?_
  have hpr : p < r.length := h ▸ hpc
  have hget := getD_applyErrors (nodup_differing c r) (errorAt c r) r hpr
  rw [List.getD_eq_getElem _ _ hp] at hget
  rw [hget, ← List.getD_eq_getElem _ 0 hpc]
  by_cases hmem : p ∈ differing c r
  · rw [if_pos hmem, errorAt, BitVec.xor_comm, BitVec.xor_assoc, BitVec.xor_self, BitVec.xor_zero]
  · rw [if_neg hmem]
    by_contra hne
    exact hmem (mem_differing.2 ⟨hpr, Ne.symm hne⟩)

/-! ## The correction -/

/-- The correction finds the codeword when it supposes as many errors as there are. -/
theorem Correctable.correctWith_eq_some {c r : List Byte} (h : Correctable c r) :
    correctWith r (differing c r).length = some c := by
  obtain ⟨K, _, φ, hφ⟩ := exists_readsField
  obtain ⟨lam, hlam, hroot⟩ := exists_errorLocator c r
  have hlocator := locator_eq_some hφ h hlam fun i hi => (hroot _).2 ⟨i, List.mem_toFinset.1 hi, rfl⟩
  have hdist : distance c r ≤ 4 := distance_eq_length_differing h.length_eq ▸ h.few
  rw [correctWith, hlocator]
  simp only [h.errorIndices_eq hroot, errorValues_eq_some hφ h, applyErrors_differing h.length_eq,
    (isCodeword_iff c).2 h.isCodeword, hdist, decide_true, Bool.and_self, if_true]

/-- Whatever number of errors is supposed, what the correction keeps is a codeword within distance 4. -/
theorem correctWith_sound {c r : List Byte} {u : Nat} (h : correctWith r u = some c) :
    c.length = r.length ∧ IsCodeword c ∧ distance c r ≤ 4 := by
  unfold correctWith at h
  split at h
  · cases h
  · dsimp only at h
    split at h
    · cases h
    · split at h
      · next hkept =>
        cases h
        rw [Bool.and_eq_true, isCodeword_iff, decide_eq_true_eq] at hkept
        exact ⟨length_applyErrors _ _, hkept⟩
      · cases h

theorem rsCorrect_sound {c r : List Byte} (h : rsCorrect r = some c) :
    c.length = r.length ∧ IsCodeword c ∧ distance c r ≤ 4 := by
  obtain ⟨u, -, hu⟩ := List.exists_of_findSome?_eq_some h
  exact correctWith_sound hu

theorem rsCorrect_of_isCodeword {r : List Byte} (h : IsCodeword r) : rsCorrect r = some r := by
  have hnil : differing r r = [] := by simp [differing]
  have hself : Correctable r r := ⟨rfl, h, by simp [hnil], by simp [hnil]⟩
  have hzero : correctWith r 0 = some r := by simpa [hnil] using hself.correctWith_eq_some
  rw [rsCorrect, List.findSome?_cons, hzero]

/-- Settles O24: the correction checks what it returns, and supposes no error first. -/
theorem rsCorrectReturnsNearCodeword : Obligations.RsCorrectReturnsNearCodeword := by
  unfold Obligations.RsCorrectReturnsNearCodeword
  exact ⟨fun _ _ => rsCorrect_sound, fun _ => rsCorrect_of_isCodeword⟩

/-- Settles O25: the right number of errors gives the codeword, and no other number gives another one. -/
theorem rsCorrectIsBoundedDistance : Obligations.RsCorrectIsBoundedDistance := by
  unfold Obligations.RsCorrectIsBoundedDistance
  refine fun r _ hr c => ⟨rsCorrect_sound, fun ⟨hlen, hc, hdist⟩ => ?_⟩
  have hfew : (differing c r).length ≤ 4 := distance_eq_length_differing hlen ▸ hdist
  have hfound := Correctable.correctWith_eq_some ⟨hlen, hc, hfew, fun k hk i hi h =>
    location_inj hr hi (mem_differing.1 hk).1 h⟩
  have hsome : (rsCorrect r).isSome := by
    rw [rsCorrect, List.findSome?_isSome_iff]
    exact ⟨(differing c r).length, (List.mem_range.2 (by omega) : _ ∈ List.range 5), by rw [hfound]; rfl⟩
  obtain ⟨d, hd⟩ := Option.isSome_iff_exists.1 hsome
  obtain ⟨hdlen, hdc, hddist⟩ := rsCorrect_sound hd
  have hclose : distance d c ≤ 8 := (distance_le_add hdlen hlen).trans (by omega)
  rw [hd, codeword_eq_of_distance_le (hdlen.trans hlen.symm) (hlen ▸ hr) hdc hc hclose]

end Sys2Proof.Machine
end

section
/-!
SUPPORT. The commands `RS.ENC` and `RS.DEC`: which plan each state gives them, and what they leave
(42_reed_solomon.md R104, R106, R107).
-/

namespace Sys2Proof.Machine

variable {s : State}

/-! ## Encoding -/

@[simp] theorem length_rsEncode (m : List Byte) : (rsEncode m).length = m.length + 10 := by
  simp [rsEncode, length_rsEcc]

theorem isCodeword_rsEncode (m : List Byte) : IsCodeword (rsEncode m) := isCodeword_append_rsEcc _

/-- The result is the two length bytes, the message and the check bytes of both. -/
theorem rsEncode_eq (m : List Byte) :
    rsEncode m = BitVec.ofNat 8 (m.length / 256) :: BitVec.ofNat 8 (m.length % 256) :: (m ++
      rsEcc ((rsEncode m).take (m.length + 2))) := by
  have htake : (rsEncode m).take (m.length + 2) =
      BitVec.ofNat 8 (m.length / 256) :: BitVec.ofNat 8 (m.length % 256) :: m := List.take_left' rfl
  rw [htake]
  rfl

theorem rsEncPlan_of_lt (h : 245 < s.byteLen.toNat) :
    rsEncPlan s = .error (Raise.of .length s.byteLen.toNat) := by
  rw [rsEncPlan, State.length_bytes, Config.rsMaxMsg, decide_eq_false (by omega)]
  rfl

theorem rsEncPlan_of_le (h : s.byteLen.toNat ≤ 245) : rsEncPlan s = s.planBytes (rsEncode s.bytes) {} := by
  rw [rsEncPlan, State.length_bytes, Config.rsMaxMsg, decide_eq_true h]
  rfl

/-- What `RS.ENC` does with a message that is not too long. -/
theorem exec_rsEnc_of_le (hready : s.Ready) (hfits : s.Fits .byte) (h : s.byteLen.toNat ≤ 245) :
    (s.byteLen.toNat + 10 ≤ s.impl.capBytes →
      ∃ t, exec .rsEnc s = .next t ∧ t.bytes = rsEncode s.bytes ∧ Ended s t {} ∧ WritesOnlyBytes s t) ∧
    (s.impl.capBytes < s.byteLen.toNat + 10 → exec .rsEnc s = .next (s.faulted .capacity 0x60)) := by
  have hstores := exec_of_planBytes (i := .rsEnc) (by decide) (by decide) hready
    (fun b hb => Option.some.inj hb ▸ hfits) (rsEncPlan_of_le h)
  rwa [length_rsEncode, State.length_bytes] at hstores

/-- Settles O23: the check of the length, then the plan that stores the three parts. -/
theorem rsEncodeResult : Obligations.RsEncodeResult := by
  unfold Obligations.RsEncodeResult
  intro s hready hfits
  refine ⟨fun hlong => ?_, fun hlen => (exec_rsEnc_of_le hready hfits hlen).2, fun hlen hcap => ?_⟩
  · exact exec_of_plan_error (by decide) (by decide) hready.1 (fun b hb => Option.some.inj hb ▸ hfits)
      (rsEncPlan_of_lt hlong)
  obtain ⟨t, ht, hbytes, hended, hframe⟩ := (exec_rsEnc_of_le hready hfits hlen).1 hcap
  have htlen : t.byteLen.toNat = s.byteLen.toNat + 10 := by
    rw [← State.length_bytes, hbytes, length_rsEncode, State.length_bytes]
  have hparts := rsEncode_eq s.bytes
  rw [← hbytes, State.length_bytes] at hparts
  have hget {i : Nat} (hi : i < s.byteLen.toNat + 10) := State.getElem?_bytes (s := t) (htlen.symm ▸ hi)
  refine ⟨t, ht, htlen, ?_, ?_, fun j hj => ?_, ?_, hended, hframe⟩
  · have h0 := hget (i := 0) (by omega)
    rw [hparts, List.getElem?_cons_zero] at h0
    rw [← Option.some.inj h0, BitVec.toNat_ofNat, Nat.mod_eq_of_lt (by omega)]
  · have h1 := hget (i := 1) (by omega)
    rw [hparts, List.getElem?_cons_succ, List.getElem?_cons_zero] at h1
    rw [← Option.some.inj h1, BitVec.toNat_ofNat, Nat.mod_eq_of_lt (by omega)]
  · have hj2 := hget (i := 2 + j) (by omega)
    rw [hparts, Nat.add_comm 2 j, List.getElem?_cons_succ, List.getElem?_cons_succ,
      List.getElem?_append_left (by rwa [State.length_bytes]), State.getElem?_bytes hj] at hj2
    rw [Nat.add_comm 2 j, ← Option.some.inj hj2]
  · conv_lhs => rw [hparts]
    rw [List.drop_succ_cons, List.drop_succ_cons, List.drop_left' s.length_bytes]

/-! ## Decoding -/

/-- The length a codeword claims in its first two bytes. -/
def claimedLength (c : List Byte) : Nat := (c.getD 0 0).toNat * 256 + (c.getD 1 0).toNat

theorem rsDecode_of_short {r : List Byte} (h : r.length < 10) : rsDecode r = (r, .short) := if_pos h

theorem rsDecode_of_long {r : List Byte} (h : 255 < r.length) : rsDecode r = (r, .fail) := by
  rw [rsDecode, if_neg (by omega), if_pos h]

theorem rsDecode_of_none {r : List Byte} (h : 10 ≤ r.length) (h' : r.length ≤ 255) (hr : rsCorrect r = none) :
    rsDecode r = (r, .fail) := by
  rw [rsDecode, if_neg (by omega), if_neg (by omega), hr]

theorem rsDecode_of_some {r c : List Byte} (h : 10 ≤ r.length) (h' : r.length ≤ 255) (hr : rsCorrect r = some c) :
    rsDecode r = if r.length - 10 < claimedLength c then (r, .fail) else (slice c 2 (2 + claimedLength c), .ok) := by
  rw [rsDecode, if_neg (by omega), if_neg (by omega), hr]
  rfl

theorem length_message {r c : List Byte} (h : 10 ≤ r.length) (hr : rsCorrect r = some c)
    (hclaim : claimedLength c ≤ r.length - 10) : (slice c 2 (2 + claimedLength c)).length = claimedLength c := by
  obtain ⟨hlen, -, -⟩ := rsCorrect_sound hr
  simp only [slice, List.length_take, List.length_drop]
  omega

theorem length_rsDecode_le (r : List Byte) : (rsDecode r).1.length ≤ r.length := by
  obtain h | h := lt_or_ge r.length 10
  · rw [rsDecode_of_short h]
  obtain h' | h' := lt_or_ge 255 r.length
  · rw [rsDecode_of_long h']
  cases hr : rsCorrect r with
  | none => rw [rsDecode_of_none h h' hr]
  | some c =>
    rw [rsDecode_of_some h h' hr]
    split
    · exact le_rfl
    · rw [length_message h hr (by omega)]
      omega

/-- What `RS.DEC` leaves: the result is no longer than the input, so it fits. -/
theorem exec_rsDec (hready : s.Ready) (hfits : s.Fits .byte) :
    ∃ t, exec .rsDec s = .next t ∧ t.bytes = (rsDecode s.bytes).1 ∧
      Ended s t { empty := decide ((rsDecode s.bytes).1.length = 0), rsStat := (rsDecode s.bytes).2 } ∧
      WritesOnlyBytes s t := by
  have hempty : (rsDecode s.bytes).1.isEmpty = decide ((rsDecode s.bytes).1.length = 0) := by
    rw [Bool.eq_iff_iff, List.isEmpty_iff_length_eq_zero, decide_eq_true_eq]
  rw [← hempty]
  refine (exec_of_planBytes (i := .rsDec) (by decide) (by decide) hready
    (fun b hb => Option.some.inj hb ▸ hfits) rfl).1 ((length_rsDecode_le _).trans ?_)
  rwa [State.length_bytes]

/-- Settles O26: the cases of `rsDecode`, one lemma each. -/
theorem rsDecodeResult : Obligations.RsDecodeResult := by
  unfold Obligations.RsDecodeResult
  intro s hready hfits
  obtain ⟨t, ht, hbytes, hended, hframe⟩ := exec_rsDec hready hfits
  have hresult {v : List Byte} {tag : RsStat} (h : rsDecode s.bytes = (v, tag)) :
      t.bytes = v ∧ Ended s t { empty := decide (v.length = 0), rsStat := tag } := by
    rw [h] at hbytes hended
    exact ⟨hbytes, hended⟩
  have hkept (h : 10 ≤ s.byteLen.toNat) (hfail : rsDecode s.bytes = (s.bytes, .fail)) :
      t.bytes = s.bytes ∧ Ended s t { rsStat := .fail } := by
    have hne : decide (s.bytes.length = 0) = false := decide_eq_false (by rw [State.length_bytes]; omega)
    exact hne ▸ hresult hfail
  refine ⟨t, ht, hframe, ?_⟩
  rw [← State.length_bytes] at hkept ⊢
  refine ⟨fun h => hresult (rsDecode_of_short h), fun h => hkept (by omega) (rsDecode_of_long h),
    fun h h' hr => hkept h (rsDecode_of_none h h' hr), fun h h' c hr => ⟨fun hclaim => ?_, fun hclaim => ?_⟩⟩
  · exact hkept h ((rsDecode_of_some h h' hr).trans (if_pos hclaim))
  · have hmessage := hresult ((rsDecode_of_some h h' hr).trans (if_neg (by exact not_lt.2 hclaim)))
    rwa [length_message h hr hclaim] at hmessage

/-! ## Decoding what was encoded -/

/-- Decoding undoes encoding for every message of at most 245 bytes. -/
theorem rsDecode_rsEncode {m : List Byte} (h : m.length ≤ 245) : rsDecode (rsEncode m) = (m, .ok) := by
  have hlen := length_rsEncode m
  have hclaim : claimedLength (rsEncode m) = m.length := by
    rw [rsEncode_eq, claimedLength, List.getD_cons_zero, List.getD_cons_succ, List.getD_cons_zero, BitVec.toNat_ofNat,
      BitVec.toNat_ofNat]
    omega
  have hmessage : slice (rsEncode m) 2 (2 + m.length) = m := by
    rw [rsEncode_eq, slice, Nat.add_sub_cancel_left]
    exact List.take_left' rfl
  rw [rsDecode_of_some (by omega) (by omega) (rsCorrect_of_isCodeword (isCodeword_rsEncode m)), hclaim, hmessage,
    if_neg (by omega)]

theorem WritesOnlyBytes.impl_eq {t : State} (h : WritesOnlyBytes s t) : t.impl = s.impl := by
  obtain ⟨⟨-, -, -, -, -, -, -, -, -, -, -, -, -, -, himpl⟩, -⟩ := h
  exact himpl

/-- Settles O27: what `RS.ENC` leaves is a codeword, which the correction returns as it is. -/
theorem rsDecodeUndoesRsEncode : Obligations.RsDecodeUndoesRsEncode := by
  unfold Obligations.RsDecodeUndoesRsEncode
  intro s hready hlen hcap
  have hfits : s.Fits .byte := by
    show s.byteLen.toNat ≤ s.impl.capBytes
    omega
  obtain ⟨t, ht, htbytes, ⟨htstatus, -⟩, hframe⟩ := (exec_rsEnc_of_le hready hfits hlen).1 hcap
  have htlen : t.byteLen.toNat = s.byteLen.toNat + 10 := by
    rw [← State.length_bytes, htbytes, length_rsEncode, State.length_bytes]
  have himpl := hframe.impl_eq
  have htready : t.Ready := ⟨by rw [htstatus]; exact hready.1, by rw [himpl]; exact hready.2⟩
  have htfits : t.Fits .byte := by
    show t.byteLen.toNat ≤ t.impl.capBytes
    rwa [htlen, himpl]
  obtain ⟨u, hu, hubytes, ⟨hustatus, -⟩, -⟩ := exec_rsDec htready htfits
  rw [htbytes, rsDecode_rsEncode (by rwa [State.length_bytes])] at hubytes hustatus
  have hulen : u.byteLen.toNat = s.byteLen.toNat := by rw [← State.length_bytes, hubytes, State.length_bytes]
  refine ⟨t, u, ht, hu, hubytes, BitVec.eq_of_toNat_eq hulen, ?_, ?_, ?_⟩
  · rw [hustatus]; rfl
  · rw [hustatus, ← State.length_bytes s]; rfl
  · rw [hustatus]; rfl

end Sys2Proof.Machine
end

section
/-!
SUPPORT. Framing: the length of a coded marker, a window that decodes to one, and the searches for the first and for the
last match (43_framing.md R115, R118 to R122).
-/

namespace Sys2Proof.Machine

variable {d : Nat} {b : Bits} {k : Marker}

/-! ## A block or a sequence of blocks with single errors -/

/-- A block in which at most one bit differs from a coded block decodes to the same chunk (41_hamming.md R96). -/
theorem hamDecBlock_of_bitDistance_le_one (hd : d = 4 ∨ d = 8) {blk chunk : Bits} (hblk : blk.length = hamBLen d)
    (hchunk : chunk.length = d) (h : bitDistance blk (hamEncBlock d chunk) ≤ 1) : hamDecBlock d blk = chunk := by
  obtain ⟨l, hl, hmem, hflips⟩ := exists_flips (hblk.trans (length_hamEncBlock d chunk).symm)
  rw [← hl] at h
  match l with
  | [] =>
    obtain rfl : blk = hamEncBlock d chunk := hflips
    exact hamDecBlock_hamEncBlock hd hchunk
  | [i] =>
    have hback : blk = flipAt (hamEncBlock d chunk) i := by
      rw [← hflips, List.foldl_cons, List.foldl_nil, flipAt_flipAt]
    rw [hback]
    exact hamDecBlock_flipAt_hamEncBlock hd hchunk (hblk ▸ hmem i List.mem_cons_self)
  | _ :: _ :: _ => simp at h

/-- A sequence in which at most one bit of each block differs from a coded sequence decodes to what was coded. -/
theorem hamDec_of_bitDistance_le_one (hd : d = 4 ∨ d = 8) {s w : Bits} (hs : s.length % d = 0)
    (hw : w.length = (hamEnc d s).length)
    (h : ∀ c < s.length / d, bitDistance (slice w (c * hamBLen d) ((c + 1) * hamBLen d))
      (slice (hamEnc d s) (c * hamBLen d) ((c + 1) * hamBLen d)) ≤ 1) : hamDec d w = some s := by
  rw [length_hamEnc] at hw
  have hblocks : (pieces (hamBLen d) w).map (hamDecBlock d) = pieces d s := by
    refine List.ext_getElem ?_ fun c hc hc' => ?_
    · rw [List.length_map, length_pieces, length_pieces, hw, Nat.mul_div_cancel _ (hamBLen_pos hd)]
    · have hblk : c < (pieces (hamBLen d) w).length := by simpa using hc
      have hchunk : c < s.length / d := length_pieces d s ▸ hc'
      have hdist := h c hchunk
      rw [hamEnc, slice_flatMap_pieces (fun p _ => length_hamEncBlock d p) hchunk, ← getElem_pieces _ _ c hblk,
        ← getElem_pieces _ _ c hc'] at hdist
      rw [List.getElem_map]
      exact hamDecBlock_of_bitDistance_le_one hd (length_of_mem_pieces (List.getElem_mem hblk))
        (length_of_mem_pieces (List.getElem_mem hc')) hdist
  rw [hamDec_of_mod_eq (by rw [hw, Nat.mul_mod_left]), List.flatMap_def, hblocks, flatten_pieces_of_dvd hs]

/-! ## Markers -/

@[simp] theorem length_rawMark (k : Marker) : (rawMark k).length = 16 := by
  cases k <;> decide

theorem length_rawMark_mod (hd : d = 4 ∨ d = 8) (k : Marker) : (rawMark k).length % d = 0 := by
  rw [length_rawMark]
  obtain rfl | rfl := hd <;> decide

@[simp] theorem length_codedMark (d : Nat) (k : Marker) : (codedMark d k).length = markerLen d := by
  rw [codedMark, length_hamEnc, length_rawMark, markerLen]

theorem hamDec_codedMark (hd : d = 4 ∨ d = 8) (k : Marker) : hamDec d (codedMark d k) = some (rawMark k) :=
  hamDec_hamEnc hd (length_rawMark_mod hd k)

/-- A window of the length of a marker matches wherever it stands, if it decodes to the raw marker (R118). -/
theorem matchesAt_append {w : Bits} (pre post : Bits) (hw : w.length = markerLen d)
    (hdec : hamDec d w = some (rawMark k)) : MatchesAt d (pre ++ w ++ post) k pre.length := by
  have hwindow : slice (pre ++ w ++ post) pre.length (pre.length + markerLen d) = w := by
    rw [slice, List.append_assoc, List.drop_left, Nat.add_sub_cancel_left, List.take_left' hw]
  refine ⟨?_, hwindow.symm ▸ hdec⟩
  simp only [List.length_append, hw]
  omega

/-- A match is in the sequence, so what precedes it is as long as its index. -/
theorem length_take_of_matchesAt {i : Nat} (h : MatchesAt d b k i) : (b.take i).length = i := by
  obtain ⟨hle, -⟩ := h
  exact List.length_take_of_le (by omega)

/-- Settles O30: each block of the window decodes to its part of the raw marker. -/
theorem damagedMarkerStillMatches : Obligations.DamagedMarkerStillMatches := by
  unfold Obligations.DamagedMarkerStillMatches
  intro d k pre w post hd hw
  refine ⟨?_, fun hdist => matchesAt_append pre post hw ?_⟩
  · rw [hamDec_of_mod_eq (by rw [hw, markerLen, Nat.mul_mod_left])]
    rfl
  · rw [← length_rawMark k] at hdist
    exact hamDec_of_bitDistance_le_one hd (length_rawMark_mod hd k) (hw.trans (length_codedMark d k).symm) hdist

/-! ## The searches -/

/-- Searching a list that is ordered by `R`, the first element found is the one with no other found before it. -/
theorem find?_eq_some_of_pairwise {α : Type} {R : α → α → Prop} {p : α → Bool} {l : List α} (hl : l.Pairwise R) {x : α}
    (hx : x ∈ l) (hp : p x = true) (hbefore : ∀ y ∈ l, R y x → p y = false) : l.find? p = some x := by
  obtain ⟨before, after, rfl⟩ := List.append_of_mem hx
  obtain ⟨-, -, hR⟩ := List.pairwise_append.1 hl
  refine List.find?_eq_some_iff_append.2 ⟨hp, before, after, rfl, fun y hy => ?_⟩
  rw [hbefore y (List.mem_append_left _ hy) (hR y hy x List.mem_cons_self), Bool.not_false]

theorem windowStarts_pairwise_lt (d : Nat) (b : Bits) : (windowStarts d b).Pairwise (· < ·) := by
  unfold windowStarts
  split
  · exact List.pairwise_lt_range
  · exact List.Pairwise.nil

section
variable {l : List Nat} (hmem : ∀ i, i ∈ l ↔ i ∈ windowStarts d b)
include hmem

/-- A search of the windows in any order `R` finds the match with none before it. -/
theorem find?_matchAt_eq_some {R : Nat → Nat → Prop} (hl : l.Pairwise R) {i : Nat} (hi : MatchesAt d b k i)
    (hbefore : ∀ j, R j i → ¬ MatchesAt d b k j) : l.find? (fun j => matchAt d b j k) = some i := by
  obtain ⟨hstart, hmatch⟩ := (matchesAt_iff d b k i).1 hi
  refine find?_eq_some_of_pairwise hl ((hmem i).2 hstart) hmatch fun j hj hR => ?_
  rw [Bool.eq_false_iff]
  exact fun hjmatch => hbefore j hR ((matchesAt_iff d b k j).2 ⟨(hmem j).1 hj, hjmatch⟩)

theorem find?_matchAt_eq_none (h : ∀ i, ¬ MatchesAt d b k i) : l.find? (fun j => matchAt d b j k) = none :=
  List.find?_eq_none.2 fun j hj hmatch => h j ((matchesAt_iff d b k j).2 ⟨(hmem j).1 hj, hmatch⟩)

end

theorem stripLeading_of_no_match (h : ∀ i, ¬ MatchesAt d b .start i) : stripLeading d b = ([], false) := by
  rw [stripLeading, find?_matchAt_eq_none (fun _ => Iff.rfl) h]

theorem stripLeading_of_first_match {i : Nat} (hi : MatchesAt d b .start i)
    (hfirst : ∀ j < i, ¬ MatchesAt d b .start j) : stripLeading d b = (b.drop (i + markerLen d), true) := by
  rw [stripLeading, find?_matchAt_eq_some (fun _ => Iff.rfl) (windowStarts_pairwise_lt d b) hi hfirst]
  simp only [slice]
  rw [List.take_of_length_le (List.length_drop).le]

theorem stripTrailing_of_no_match (h : ∀ i, ¬ MatchesAt d b .finish i) : stripTrailing d b = ([], false) := by
  rw [stripTrailing, find?_matchAt_eq_none (fun _ => List.mem_reverse) h]

theorem stripTrailing_of_last_match {i : Nat} (hi : MatchesAt d b .finish i)
    (hlast : ∀ j, i < j → ¬ MatchesAt d b .finish j) : stripTrailing d b = (b.take i, true) := by
  rw [stripTrailing, find?_matchAt_eq_some (fun _ => List.mem_reverse)
    (List.pairwise_reverse.2 (windowStarts_pairwise_lt d b)) hi hlast]
  rfl

theorem unwrapFrame_of_no_start (h : stripLeading d b = ([], false)) : unwrapFrame d b = ([], false) := by
  rw [unwrapFrame, h]
  rfl

theorem unwrapFrame_of_no_finish {rest : Bits} (h : stripLeading d b = (rest, true))
    (h' : stripTrailing d rest = ([], false)) : unwrapFrame d b = ([], false) := by
  rw [unwrapFrame, h, if_pos rfl, h']
  rfl

theorem unwrapFrame_of_both {rest inner : Bits} (h : stripLeading d b = (rest, true))
    (h' : stripTrailing d rest = (inner, true)) : unwrapFrame d b = (inner, true) := by
  rw [unwrapFrame, h, if_pos rfl, h', if_pos rfl]

/-! ## Stripping what was put there -/

/-- The window at 0 is the marker itself, and no window is before it (R122). -/
theorem stripLeading_codedMark_append (hd : d = 4 ∨ d = 8) (b : Bits) :
    stripLeading d (codedMark d .start ++ b) = (b, true) := by
  have hmatch : MatchesAt d (codedMark d .start ++ b) .start 0 :=
    matchesAt_append [] b (length_codedMark d .start) (hamDec_codedMark hd .start)
  rw [stripLeading_of_first_match hmatch fun j hj => absurd hj (Nat.not_lt_zero j), Nat.zero_add,
    List.drop_left' (length_codedMark d .start)]

/-- The window at the end is the marker itself, and no window is after it (R122). -/
theorem stripTrailing_append_codedMark (hd : d = 4 ∨ d = 8) (b : Bits) :
    stripTrailing d (b ++ codedMark d .finish) = (b, true) := by
  have hmatch := matchesAt_append b [] (length_codedMark d .finish) (hamDec_codedMark hd .finish)
  rw [List.append_nil] at hmatch
  rw [stripTrailing_of_last_match hmatch fun j hj => ?_, List.take_left]
  rintro ⟨hle, -⟩
  rw [List.length_append, length_codedMark] at hle
  omega

/-- Settles O34: the marker put there is the first, or the last, that the search tries. -/
theorem framingIdempotent : Obligations.FramingIdempotent := by
  unfold Obligations.FramingIdempotent
  intro d b hd
  refine ⟨stripLeading_codedMark_append hd b, stripTrailing_append_codedMark hd b, ?_⟩
  rw [List.append_assoc]
  exact unwrapFrame_of_both (stripLeading_codedMark_append hd _) (stripTrailing_append_codedMark hd b)

end Sys2Proof.Machine
end

section
/-!
SUPPORT. The commands `FRM.*`: which plan each state gives them, and what they leave (43_framing.md R116, R117, R119 to
R121).
-/

namespace Sys2Proof.Machine

variable {i : Instr} {s : State}

/-- The input of a command fits when the one buffer it reads does. -/
theorem fits_of_input {b : BufId} (hin : Instr.input i = some b) (hfits : s.Fits b) :
    ∀ b', Instr.input i = some b' → s.Fits b' :=
  fun _ hb => Option.some.inj (hin.symm.trans hb) ▸ hfits

/-! ## The plans -/

theorem framePlan_of_not_ok (f : Nat → Bits → Bits) (h : ¬ s.HamOk) :
    framePlan f s = .error (Raise.of .config 0x10) := by
  rw [framePlan, State.checkHam_of_not_ok h, error_bind]

theorem framePlan_of_ok (f : Nat → Bits → Bits) (h : s.HamOk) :
    framePlan f s = s.planBits (f s.hamDSize s.bits) {} := by
  rw [framePlan, State.checkHam_of_ok h, ok_bind]

theorem searchPlan_of_not_ok (f : Nat → Bits → Bits × Bool) (h : ¬ s.HamOk) :
    searchPlan f s = .error (Raise.of .config 0x10) := by
  rw [searchPlan, State.checkHam_of_not_ok h, error_bind]

theorem searchPlan_of_ok {f : Nat → Bits → Bits × Bool} {v : Bits} {found : Bool} (h : s.HamOk)
    (hf : f s.hamDSize s.bits = (v, found)) : searchPlan f s = s.planBits v (Flags.search v found) := by
  rw [searchPlan, State.checkHam_of_ok h, ok_bind, hf]

theorem Flags.search_eq (v : Bits) (found : Bool) :
    Flags.search v found = { empty := decide (v.length = 0), found := found } := by
  cases v <;> rfl

/-! ## Markers and frames -/

/-- Settles O29: the plan stores the content between the two coded markers. -/
theorem frameWrapResult : Obligations.FrameWrapResult := by
  unfold Obligations.FrameWrapResult
  intro s hready hfits
  have hin := fits_of_input (i := .frmWrap) rfl hfits
  have hlen : (wrapFrame s.hamDSize s.bits).length = s.bitLen.toNat + 2 * markerLen s.hamDSize := by
    rw [wrapFrame, List.length_append, List.length_append, length_codedMark, length_codedMark, State.length_bits]
    omega
  have hstores (hd : s.HamOk) :=
    exec_of_planBits (i := .frmWrap) (by decide) (by decide) hready hin (framePlan_of_ok wrapFrame hd)
  rw [hlen] at hstores
  exact ⟨fun hd => exec_of_plan_error (by decide) (by decide) hready.1 hin (framePlan_of_not_ok wrapFrame hd),
    fun hd => (hstores hd).2, fun hd => (hstores hd).1⟩

/-- A command that stores a coded marker, for a block size at which the marker is known. -/
theorem exec_of_markPlan {k : Marker} {d n v : Nat} (hready : s.Ready) (hr : i ≠ .reset) (hc : i ≠ .clrErr)
    (hin : Instr.input i = none) (hplan : Instr.plan s.env s i = framePlan (fun d _ => codedMark d k) s)
    (hd : d = 4 ∨ d = 8) (hmark : codedMark d k = bitsOfNat n v) :
    (s.hamDSize = d → n ≤ s.impl.capBits → ∃ t, exec i s = .next t ∧
      t.bits = bitsOfNat n v ∧ Ended s t {} ∧ WritesOnlyBits s t) ∧
    (s.hamDSize = d → s.impl.capBits < n → exec i s = .next (s.faulted .capacity 0x64)) ∧
    (¬ s.HamOk → exec i s = .next (s.faulted .config 0x10)) := by
  have hfits : ∀ b, Instr.input i = some b → s.Fits b := fun b hb => by rw [hin] at hb; cases hb
  have hstores (h : s.hamDSize = d) := by
    have hok : s.HamOk := by rwa [State.HamOk, h]
    have hcoded := hplan.trans (framePlan_of_ok _ hok)
    rw [h, hmark] at hcoded
    exact exec_of_planBits hr hc hready hfits hcoded
  rw [length_bitsOfNat] at hstores
  exact ⟨fun h => (hstores h).1, fun h => (hstores h).2, fun h =>
    exec_of_plan_error hr hc hready.1 hfits (hplan.trans (framePlan_of_not_ok _ h))⟩

/-- Settles O28: for each block size the plan stores the marker as the rule prints it. -/
theorem frameMarkerBits : Obligations.FrameMarkerBits := by
  unfold Obligations.FrameMarkerBits
  intro s hready c hc
  simp only [List.mem_cons, List.not_mem_nil, or_false] at hc
  obtain rfl | rfl | rfl | rfl := hc
  · exact exec_of_markPlan (k := .start) hready (by decide) (by decide) rfl rfl (.inr rfl) (by decide)
  · exact exec_of_markPlan (k := .finish) hready (by decide) (by decide) rfl rfl (.inr rfl) (by decide)
  · exact exec_of_markPlan (k := .start) hready (by decide) (by decide) rfl rfl (.inl rfl) (by decide)
  · exact exec_of_markPlan (k := .finish) hready (by decide) (by decide) rfl rfl (.inl rfl) (by decide)

/-! ## Searches -/

section
variable {f : Nat → Bits → Bits × Bool} (hr : i ≠ .reset) (hc : i ≠ .clrErr) (hready : s.Ready) (hfits : s.Fits .bit)
  (hin : Instr.input i = some .bit) (hplan : Instr.plan s.env s i = searchPlan f s)
include hr hc hready hfits hin hplan

theorem exec_of_searchPlan_of_not_ok (hd : ¬ s.HamOk) : exec i s = .next (s.faulted .config 0x10) :=
  exec_of_plan_error hr hc hready.1 (fits_of_input hin hfits)
    (hplan.trans (searchPlan_of_not_ok f hd))

/-- A command that searches leaves what its search gives; that is no longer than the input, so it fits. -/
theorem exec_of_searchPlan (hd : s.HamOk) {v : Bits} {found : Bool} (hf : f s.hamDSize s.bits = (v, found))
    (hle : v.length ≤ s.bits.length) : ∃ t, exec i s = .next t ∧ t.bits = v ∧
      Ended s t { empty := decide (v.length = 0), found := found } ∧ WritesOnlyBits s t := by
  rw [State.length_bits] at hle
  rw [← Flags.search_eq]
  exact (exec_of_planBits hr hc hready (fits_of_input hin hfits)
    (hplan.trans (searchPlan_of_ok hd hf))).1 (hle.trans hfits)

end

/-- Settles O31: the search is from the front. -/
theorem stripLeadingResult : Obligations.StripLeadingResult := by
  unfold Obligations.StripLeadingResult
  intro s hready hfits
  have hresult (hd : s.HamOk) {v : Bits} {found : Bool} (hf : stripLeading s.hamDSize s.bits = (v, found)) :=
    exec_of_searchPlan (i := .frmStripL) (by decide) (by decide) hready hfits rfl rfl hd hf
  refine ⟨fun hd => exec_of_searchPlan_of_not_ok (by decide) (by decide) hready hfits rfl rfl hd,
    fun hd hnone => hresult hd (stripLeading_of_no_match hnone) (Nat.zero_le _), fun hd i hi hfirst => ?_⟩
  have hempty : (s.bits.drop (i + markerLen s.hamDSize)).length = 0 ↔
      s.bitLen.toNat = i + markerLen s.hamDSize := by
    obtain ⟨hle, -⟩ := hi
    rw [State.length_bits] at hle
    rw [List.length_drop, State.length_bits]
    omega
  simp only [← hempty]
  exact hresult hd (stripLeading_of_first_match hi hfirst) (by rw [List.length_drop]; exact Nat.sub_le _ _)

/-- Settles O32: the search is from the back. -/
theorem stripTrailingResult : Obligations.StripTrailingResult := by
  unfold Obligations.StripTrailingResult
  intro s hready hfits
  have hresult (hd : s.HamOk) {v : Bits} {found : Bool} (hf : stripTrailing s.hamDSize s.bits = (v, found)) :=
    exec_of_searchPlan (i := .frmStripT) (by decide) (by decide) hready hfits rfl rfl hd hf
  refine ⟨fun hd => exec_of_searchPlan_of_not_ok (by decide) (by decide) hready hfits rfl rfl hd,
    fun hd hnone => hresult hd (stripTrailing_of_no_match hnone) (Nat.zero_le _), fun hd i hi hlast => ?_⟩
  have hpart := hresult hd (stripTrailing_of_last_match hi hlast) (List.length_take_le' _ _)
  rwa [length_take_of_matchesAt hi] at hpart

/-- Settles O33: the search from the front, then in what follows the one from the back. -/
theorem unwrapResult : Obligations.UnwrapResult := by
  unfold Obligations.UnwrapResult
  intro s hready hfits
  have hresult (hd : s.HamOk) {v : Bits} {found : Bool} (hf : unwrapFrame s.hamDSize s.bits = (v, found)) :=
    exec_of_searchPlan (i := .frmUnwrap) (by decide) (by decide) hready hfits rfl rfl hd hf
  refine ⟨fun hd => exec_of_searchPlan_of_not_ok (by decide) (by decide) hready hfits rfl rfl hd,
    fun hd hnone => hresult hd (unwrapFrame_of_no_start (stripLeading_of_no_match hnone)) (Nat.zero_le _),
    fun hd i hi hfirst => ?_⟩
  have hleading := stripLeading_of_first_match hi hfirst
  refine ⟨fun hnone => hresult hd (unwrapFrame_of_no_finish hleading (stripTrailing_of_no_match hnone)) (Nat.zero_le _),
    fun k hk hlast => ?_⟩
  have hpart := hresult hd (unwrapFrame_of_both hleading (stripTrailing_of_last_match hk hlast)) (by
    rw [List.length_take, List.length_drop]
    omega)
  rwa [length_take_of_matchesAt hk] at hpart

end Sys2Proof.Machine
end

section
/-!
SUPPORT. The noise on a waveform, sample by sample: each noisy sample is the one the rules give for its index
(47_noise_and_system.md R170, R172, R173).
-/

namespace Sys2Proof.Machine

/-! ## The negative of a pattern -/

theorem F32.sign_negate (x : F32) : F32.sign (F32.negate x) = !F32.sign x := by
  simp [F32.sign, F32.negate]

theorem F32.exponent_negate (x : F32) : F32.exponent (F32.negate x) = F32.exponent x := by
  have hbits : (F32.negate x).extractLsb' 23 8 = x.extractLsb' 23 8 := by
    rw [F32.negate, BitVec.extractLsb'_xor]
    exact BitVec.xor_zero
  rw [F32.exponent, hbits, F32.exponent]

theorem F32.fraction_negate (x : F32) : F32.fraction (F32.negate x) = F32.fraction x := by
  have hbits : (F32.negate x).extractLsb' 0 23 = x.extractLsb' 0 23 := by
    rw [F32.negate, BitVec.extractLsb'_xor]
    exact BitVec.xor_zero
  rw [F32.fraction, hbits, F32.fraction]

theorem F32.isFinite_negate (x : F32) : F32.isFinite (F32.negate x) = F32.isFinite x := by
  rw [F32.isFinite, F32.exponent_negate, F32.isFinite]

theorem F32.units_negate (x : F32) : F32.units (F32.negate x) = -F32.units x := by
  have hmagnitude : F32.magnitude (F32.negate x) = F32.magnitude x := by
    rw [F32.magnitude, F32.exponent_negate, F32.fraction_negate, F32.magnitude]
  rw [F32.units, F32.units, F32.sign_negate, hmagnitude]
  cases F32.sign x <;> simp

/-! ## The value of a pattern, in units of 2^-149 -/

theorem F32.rat_eq_units_div (x : F32) : F32.rat x = F32.units x / 2 ^ 149 := by
  rw [F32.rat, Rat.mkRat_eq_div]
  norm_num

theorem F32.rat_negate (x : F32) : F32.rat (F32.negate x) = -F32.rat x := by
  rw [F32.rat_eq_units_div, F32.rat_eq_units_div, F32.units_negate]
  push_cast
  ring

theorem F32.rat_pos_iff (x : F32) : 0 < F32.rat x ↔ 0 < F32.units x := by
  rw [F32.rat_eq_units_div, div_pos_iff_of_pos_right (by positivity), Int.cast_pos]

theorem F32.rat_nonneg_iff (x : F32) : 0 ≤ F32.rat x ↔ 0 ≤ F32.units x := by
  rw [F32.rat_eq_units_div, le_div_iff₀ (by positivity), zero_mul, Int.cast_nonneg_iff]

theorem F32.rat_eq_rat_iff (x y : F32) : F32.rat x = F32.rat y ↔ F32.units x = F32.units y := by
  rw [F32.rat_eq_units_div, F32.rat_eq_units_div, div_left_inj' (by positivity), Int.cast_inj]

theorem F32.isNonneg_iff (x : F32) : F32.isNonneg x = true ↔ F32.isFinite x = true ∧ 0 ≤ F32.rat x := by
  rw [F32.isNonneg, Bool.and_eq_true, decide_eq_true_eq, F32.rat_nonneg_iff]

theorem F32.isFinite_of_isSample {x : F32} (h : F32.isSample x = true) : F32.isFinite x = true := by
  rw [F32.isSample, Bool.and_eq_true] at h
  exact h.1

/-! ## One noisy sample -/

theorem reals_lawful (N : Numerics) : N.reals.Lawful N.drawReal N.toF32 := N.lawful.choose_spec.2.2

/-- The number a draw stands for, brought into the range of its mode (R172). -/
theorem drawReal_drawIn (N : Numerics) (gauss : Bool) {level : F32} (h : F32.isNonneg level = true) (d : N.Draw) :
    N.drawReal (drawIn N.reals gauss level d) =
      if gauss then N.drawReal d else max (-(F32.rat level : ℝ)) (min (F32.rat level : ℝ) (N.drawReal d)) := by
  obtain ⟨hfinite, hnonneg⟩ := (F32.isNonneg_iff level).1 h
  have hX := reals_lawful N
  have hhigh : N.drawReal (N.reals.val level) = (F32.rat level : ℝ) := hX.val_real _ hfinite
  have hlow : N.drawReal (N.reals.val (F32.negate level)) = -(F32.rat level : ℝ) := by
    rw [hX.val_real _ ((F32.isFinite_negate level).trans hfinite), F32.rat_negate, Rat.cast_neg]
  have hle : N.drawReal (N.reals.val (F32.negate level)) ≤ N.drawReal (N.reals.val level) := by
    have hcast : (0 : ℝ) ≤ F32.rat level := by exact_mod_cast hnonneg
    rw [hlow, hhigh]
    linarith
  cases gauss with
  | true => rfl
  | false =>
    show N.drawReal (clampTo _ _ _ _) = max _ _
    rw [real_clampTo hX _ _ _ hle, hlow, hhigh]

/-- A noisy sample is the stored value of the real sum clamped to [-1, 1] (R170). -/
theorem noisySample_eq_toF32 (N : Numerics) (gauss : Bool) (level : F32) {x : F32} (hx : F32.isFinite x = true)
    (d : N.Draw) : noisySample N.reals gauss level x d =
      N.toF32 (max (-1) (min 1 ((F32.rat x : ℝ) + N.drawReal (drawIn N.reals gauss level d)))) := by
  have hX := reals_lawful N
  rw [noisySample_eq_store hX, hX.add_real, hX.val_real x hx]

variable {s : State}

/-- The draw of a noisy sample is the one `drawOn` names (R172). -/
theorem drawReal_eq_drawOn (h : s.LevelOk) (i : Nat) :
    Config.numerics.drawReal (drawIn Config.numerics.reals s.noiseGauss s.level (s.env.draw i)) = s.drawOn i :=
  drawReal_drawIn Config.numerics s.noiseGauss h _

/-- With noise, sample `i` of a command's waveform is the one `noiseOn` names (R170). -/
theorem noisySample_eq_noiseOn (h : s.LevelOk) (hunits : F32.units s.level ≠ 0) {x : F32}
    (hx : F32.isFinite x = true) (i : Nat) :
    noisySample Config.numerics.reals s.noiseGauss s.level x (s.env.draw i) = s.noiseOn i x := by
  rw [State.noiseOn, if_neg hunits, noisySample_eq_toF32 _ _ _ hx, drawReal_eq_drawOn h]

/-- Sample `i` of a command's noisy waveform, with noise or without (R170, R173). -/
theorem getElem?_noised (h : s.LevelOk) {w : List F32} (hw : AllSamples w) (i : Nat) :
    (s.noised s.env w)[i]? = w[i]?.map (s.noiseOn i) := by
  by_cases hunits : F32.units s.level = 0
  · have hsame : s.noiseOn i = id := funext fun x => if_pos hunits
    rw [noised_of_units_eq_zero _ hunits, hsame, id, Option.map_id]
    rfl
  · rw [State.noised, addNoise, if_neg hunits, getElem?_noisySamples, Nat.zero_add]
    refine Option.map_congr fun x hx => noisySample_eq_noiseOn h hunits ?_ i
    exact F32.isFinite_of_isSample (hw x (List.mem_of_getElem? hx))

end Sys2Proof.Machine
end

section
/-!
SUPPORT. A command whose plan is to store a waveform between two runs of silence: what it leaves, sample by sample,
when it fits, and the fault when it does not (44_modulators.md R138; 20_memory.md R44).
-/

namespace Sys2Proof.Machine

variable {R D : Type} {i : Instr} {s : State}

/-! ## The padded waveform -/

theorem getElem?_padded_of_lt {k : Nat} (hk : k < s.pad.toNat) (w : List F32) :
    (s.padded w)[k]? = some F32.zero := by
  rw [State.padded, List.append_assoc, List.getElem?_append_left (by rwa [List.length_replicate]),
    List.getElem?_replicate_of_lt hk]

theorem getElem?_padded_add (s : State) {w : List F32} {k : Nat} (hk : k < w.length) :
    (s.padded w)[s.pad.toNat + k]? = some (w.getD k F32.zero) := by
  have hskip := List.getElem?_append_right (l₁ := List.replicate s.pad.toNat F32.zero)
    (l₂ := w ++ List.replicate s.pad.toNat F32.zero) (i := s.pad.toNat + k) (by simp)
  rw [State.padded, List.append_assoc, hskip, List.length_replicate, Nat.add_sub_cancel_left,
    List.getElem?_append_left hk, List.getElem?_eq_getElem hk, List.getD_eq_getElem _ _ hk]

theorem getElem?_padded_add_length {k : Nat} (hk : k < s.pad.toNat) (w : List F32) :
    (s.padded w)[s.pad.toNat + w.length + k]? = some F32.zero := by
  have hlen : (List.replicate s.pad.toNat F32.zero ++ w).length = s.pad.toNat + w.length := by simp
  rw [State.padded, List.getElem?_append_right (by omega), hlen, Nat.add_sub_cancel_left,
    List.getElem?_replicate_of_lt hk]

/-! ## A plan that stores samples -/

theorem State.planWave_of_le (E : Env R D) {n : Nat} (w : List F32) (h : 2 * s.pad.toNat + n ≤ s.impl.capSamples) :
    s.planWave E n w = .ok {
      samples := some (s.noised E (s.padded w)), taken := drawsTaken s.level (2 * s.pad.toNat + n)
      flags := { empty := decide (2 * s.pad.toNat + n = 0) } } := by
  rw [State.planWave, State.checkCapacity_of_le (b := .samp) h, ok_bind]
  rfl

theorem State.planWave_of_lt (E : Env R D) {n : Nat} (w : List F32) (h : s.impl.capSamples < 2 * s.pad.toNat + n) :
    s.planWave E n w = .error (Raise.of .capacity 0x68) := by
  rw [State.planWave, State.checkCapacity_of_lt (b := .samp) h, error_bind]
  rfl

/-- Storing samples writes `SAMPBUF` and `SAMPLEN` only, and takes the draws. -/
theorem writesOnlySamples_completed (s : State) {v : List F32} (n : Nat) (f : Flags) (hv : v.length < 2 ^ 32) :
    WritesOnlySamples s ((Ending.completed { samples := v, taken := drawsTaken s.level n, flags := f }).on s) n := by
  obtain ⟨hoperands, hhost⟩ :=
    (Ending.completed { samples := v, taken := drawsTaken s.level n, flags := f }).sameOperands_on s
  refine ⟨hoperands, Ending.power_on rfl, Ending.sync_on rfl, Ending.bytes_on rfl, Ending.bits_on rfl, hhost,
    rfl, fun hle k hk => ?_⟩
  have hlen : ((Ending.completed { samples := v, taken := drawsTaken s.level n, flags := f }).on s).sampLen.toNat =
      v.length := toNat_ofNat_of_lt hv
  rw [hlen] at hle hk
  show (s.sampBuf.put s.sampLen.toNat v).read
    (Config.freeSample (epochAfter s.sampEpoch s.sampLen.toNat v.length)) k = s.sampleAt k
  rw [epochAfter_of_le hle]
  exact Buf.read_put_ge _ _ _ _ _ hle hk

/-- The state `t` holds the waveform `w` between two runs of silence, with noise over all of it, and nothing else of it
is written (R138). -/
structure StoresWave (s t : State) (w : List F32) : Prop where
  sampLen : t.sampLen.toNat = 2 * s.pad.toNat + w.length
  before : ∀ k < s.pad.toNat, t.sampleAt k = s.noiseOn k F32.zero
  wave : ∀ k < w.length, t.sampleAt (s.pad.toNat + k) = s.noiseOn (s.pad.toNat + k) (w.getD k F32.zero)
  after : ∀ k < s.pad.toNat,
    t.sampleAt (s.pad.toNat + w.length + k) = s.noiseOn (s.pad.toNat + w.length + k) F32.zero
  ended : Ended s t { empty := decide (2 * s.pad.toNat + w.length = 0) }
  frame : WritesOnlySamples s t (2 * s.pad.toNat + w.length)

theorem storesWave_completed (hlevel : s.LevelOk) {w : List F32} (hw : AllSamples w)
    (hlen : 2 * s.pad.toNat + w.length < 2 ^ 32) :
    StoresWave s ((Ending.completed {
      samples := some (s.noised s.env (s.padded w)), taken := drawsTaken s.level (2 * s.pad.toNat + w.length)
      flags := { empty := decide (2 * s.pad.toNat + w.length = 0) } }).on s) w := by
  have hnoised : (s.noised s.env (s.padded w)).length = 2 * s.pad.toNat + w.length := by
    rw [length_noised, length_padded]
  have hread {k : Nat} {x : F32} (hx : (s.padded w)[k]? = some x) :
      (s.sampBuf.put s.sampLen.toNat (s.noised s.env (s.padded w))).read
        (Config.freeSample (epochAfter s.sampEpoch s.sampLen.toNat (s.noised s.env (s.padded w)).length)) k =
        s.noiseOn k x := by
    have hget := getElem?_noised hlevel (hw.padded s) k
    rw [hx, Option.map_some] at hget
    obtain ⟨hk, hval⟩ := List.getElem?_eq_some_iff.1 hget
    rw [Buf.read_put_lt _ _ _ _ k hk, hval]
  exact {
    sampLen := (toNat_ofNat_of_lt (hnoised.trans_lt hlen)).trans hnoised
    before := fun k hk => hread (getElem?_padded_of_lt hk w)
    wave := fun k hk => hread (getElem?_padded_add s hk)
    after := fun k hk => hread (getElem?_padded_add_length hk w)
    ended := ⟨rfl, rfl⟩
    frame := writesOnlySamples_completed s _ _ (hnoised.trans_lt hlen) }

/-- A command whose plan is to store a waveform stores it if it fits, and raises `ERR_CAPACITY` if not
(20_memory.md R44). -/
theorem exec_of_planWave {w : List F32} (hr : i ≠ .reset) (hc : i ≠ .clrErr) (hready : s.Ready)
    (hin : ∀ b, Instr.input i = some b → s.Fits b) (hlevel : s.LevelOk) (hw : AllSamples w)
    (hplan : Instr.plan s.env s i = s.planWave s.env w.length w) :
    (2 * s.pad.toNat + w.length ≤ s.impl.capSamples → ∃ t, exec i s = .next t ∧ StoresWave s t w) ∧
    (s.impl.capSamples < 2 * s.pad.toNat + w.length → exec i s = .next (s.faulted .capacity 0x68)) := by
  obtain ⟨herr, hok⟩ := hready
  refine ⟨fun hle => ?_, fun hlt => ?_⟩
  · obtain ⟨-, -, hcap⟩ := Params.ok_bounds hok
    exact ⟨_, exec_of_plan_ok hr hc herr hin (hplan.trans (State.planWave_of_le s.env w hle)),
      storesWave_completed hlevel hw (by omega)⟩
  · exact exec_of_plan_error hr hc herr hin (hplan.trans (State.planWave_of_lt s.env w hlt))

end Sys2Proof.Machine
end

section
/-!
SUPPORT. The encoders `FSK.MOD`, `QPSK.MOD` and `TB.MOD`: which sample each tone gives, and what the commands leave
(44_modulators.md R132, R133, R135, R136, R141).
-/

namespace Sys2Proof.Machine

variable {R D : Type} {s : State}

/-! ## The samples of the waveforms -/

/-- Element `k` of block `c` of blocks of `m` elements put one after another. -/
theorem getElem?_flatMap_of_length {α β : Type} {f : α → List β} {m : Nat} {l : List α}
    (h : ∀ x ∈ l, (f x).length = m) {c k : Nat} (hc : c < l.length) (hk : k < m) :
    (l.flatMap f)[c * m + k]? = (f l[c])[k]? := by
  have hc' : c < (l.map f).length := by rwa [List.length_map]
  have hblock := slice_flatten (l := l.map f) (List.forall_mem_map.2 h) hc'
  rw [List.getElem_map] at hblock
  rw [← hblock, getElem?_slice, if_pos (by rw [Nat.succ_mul]; omega), List.flatMap_def]

/-- Sample `k` of tone `j` of tones put one after another (R133). -/
theorem getD_flatMap_tone {α : Type} (A : Arith R) (freq : α → R) {fs n : Nat} {l : List α} {j k : Nat} {x : α}
    (hx : l[j]? = some x) (hk : k < n) :
    (l.flatMap fun y => tone A (freq y) fs n).getD (j * n + k) F32.zero = toneSample A (freq x) fs k := by
  obtain ⟨hj, rfl⟩ := List.getElem?_eq_some_iff.1 hx
  have hget := getElem?_flatMap_of_length (f := fun y => tone A (freq y) fs n) (l := l)
    (fun y _ => length_tone A (freq y) fs n) hj hk
  rw [List.getD_eq_getElem?_getD, hget, tone, List.getElem?_map, List.getElem?_range hk]
  rfl

theorem getD_fskWave (s : State) {j k : Nat} (hj : j < s.bitLen.toNat) (hk : k < s.sps) :
    (fskWave s Config.numerics.arith s.bits).getD (j * s.sps + k) F32.zero =
      s.toneAt (Config.numerics.arith.val (if s.bitAt j then s.fskF1 else s.fskF0)) k :=
  getD_flatMap_tone _ (s.fskFreq Config.numerics.arith) (State.getElem?_bits hj) hk

/-- Pair `j` of a sequence of whole pairs (R136). -/
theorem getElem?_pieces_two {j : Nat} (hj : j < s.bitLen.toNat / 2) :
    (pieces 2 s.bits)[j]? = some [s.bitAt (2 * j), s.bitAt (2 * j + 1)] := by
  have hj' : j < (pieces 2 s.bits).length := by rwa [length_pieces, State.length_bits]
  rw [List.getElem?_eq_getElem hj', getElem_pieces]
  congr 1
  refine List.ext_getElem? fun k => ?_
  rw [getElem?_slice, Nat.mul_comm j 2, show (j + 1) * 2 - 2 * j = 2 by omega]
  match k with
  | 0 => simpa using State.getElem?_bits (s := s) (k := 2 * j) (by omega)
  | 1 => simpa using State.getElem?_bits (s := s) (k := 2 * j + 1) (by omega)
  | k + 2 => simp

theorem getD_qpskWave (s : State) {j k : Nat} (hj : j < s.bitLen.toNat / 2) (hk : k < s.sps) :
    (qpskWave s Config.numerics.arith s.bits).getD (j * s.sps + k) F32.zero =
      s.toneAt (Config.numerics.arith.mul (Config.numerics.arith.val s.qpskBase)
        (Config.numerics.arith.val (s.qpskMult (natOfBits [s.bitAt (2 * j), s.bitAt (2 * j + 1)])))) k :=
  getD_flatMap_tone _ (fun p => s.qpskFreq Config.numerics.arith (natOfBits p)) (getElem?_pieces_two hj) hk

/-- A symbol has at least one sample (R130). -/
theorem sps_pos (h : s.RatesOk) : 0 < s.sps := Nat.div_pos h.2.2 h.2.1

/-! ## The plans -/

section
variable (E : Env R D) (w : Word)

/-- With at least one bit, the check of the input passes. -/
theorem need_bits_of_pos (h : 0 < s.bitLen.toNat) : need (!s.bits.isEmpty) .emptyInput 0x64 = .ok () := by
  rw [← State.length_bits, List.length_pos_iff] at h
  rw [List.isEmpty_eq_false_iff.2 h]
  rfl

theorem fskModPlan_of_ready (h : s.ModReady .fsk) :
    modPlan E .fsk w s = s.planWave E (s.bitLen.toNat * s.sps) (fskWave s E.arith s.bits) := by
  obtain ⟨-, -, hpos, hconfig⟩ := h
  have hcheck : s.checkScheme .fsk .modulate w = .ok () := State.checkScheme_of_ok w hconfig
  unfold modPlan
  rw [hcheck, ok_bind, need_bits_of_pos hpos, ok_bind, State.length_bits]

theorem qpskModPlan_of_ready (h : s.ModReady .qpsk) :
    modPlan E .qpsk w s = need (decide (s.bitLen.toNat % 2 = 0)) .length s.bitLen.toNat >>= fun _ =>
      s.planWave E (s.bitLen.toNat / 2 * s.sps) (qpskWave s E.arith s.bits) := by
  obtain ⟨-, -, hpos, hconfig⟩ := h
  have hcheck : s.checkScheme .qpsk .modulate w = .ok () := State.checkScheme_of_ok w hconfig
  unfold modPlan
  rw [hcheck, ok_bind, need_bits_of_pos hpos, ok_bind, State.length_bits]

theorem tbModPlan_of_ready (h : s.ModReady .tb) :
    modPlan E .tb w s = validWave w (E.tbMod s.bits s.rate.toNat s.symRate.toNat) >>= fun l =>
      s.planWave E l.length l := by
  obtain ⟨-, -, hpos, hconfig⟩ := h
  have hcheck : s.checkScheme .tb .modulate w = .ok () := State.checkScheme_of_ok w hconfig
  unfold modPlan
  rw [hcheck, ok_bind, need_bits_of_pos hpos, ok_bind]

end

/-! ## The results -/

/-- A stored waveform of `n` symbols, symbol by symbol. -/
theorem StoresWave.symbols {t : State} {w : List F32} {n : Nat} (h : StoresWave s t w)
    (hlen : w.length = n * s.sps) (hn : 0 < n) (hsps : 0 < s.sps) :
    t.sampLen.toNat = 2 * s.pad.toNat + n * s.sps ∧
    (∀ i < s.pad.toNat, t.sampleAt i = s.noiseOn i F32.zero) ∧
    (∀ j < n, ∀ k < s.sps, t.sampleAt (s.pad.toNat + j * s.sps + k) =
      s.noiseOn (s.pad.toNat + j * s.sps + k) (w.getD (j * s.sps + k) F32.zero)) ∧
    (∀ i < s.pad.toNat, t.sampleAt (s.pad.toNat + n * s.sps + i) =
      s.noiseOn (s.pad.toNat + n * s.sps + i) F32.zero) ∧
    Ended s t {} ∧ WritesOnlySamples s t (2 * s.pad.toNat + n * s.sps) := by
  obtain ⟨hsampLen, hbefore, hwave, hafter, hended, hframe⟩ := h
  have hfilled : decide (2 * s.pad.toNat + n * s.sps = 0) = false := by
    have htotal := Nat.mul_pos hn hsps
    exact decide_eq_false (by omega)
  rw [hlen] at hsampLen hwave hafter hended hframe
  rw [hfilled] at hended
  refine ⟨hsampLen, hbefore, fun j hj k hk => ?_, hafter, hended, hframe⟩
  have hinside : j * s.sps + k < n * s.sps := by
    have hnext := Nat.mul_le_mul_right s.sps hj
    rw [Nat.succ_mul] at hnext
    omega
  rw [Nat.add_assoc]
  exact hwave _ hinside

/-- Settles O35: the plan stores one tone a bit. -/
theorem fskModulateResult : Obligations.FskModulateResult := by
  unfold Obligations.FskModulateResult
  intro s hmod
  have ⟨hready, hfits, hpos, hrates, _, hlevel⟩ := hmod
  have hlen : (fskWave s Config.numerics.arith s.bits).length = s.bitLen.toNat * s.sps := by
    rw [length_fskWave, State.length_bits]
  obtain ⟨store, hs, hA, -⟩ := Config.numerics.lawful
  obtain ⟨hfit, hfull⟩ := exec_of_planWave (i := .fskMod) (by decide) (by decide) hready (fits_of_input rfl hfits)
    hlevel (allSamples_fskWave hs hA s s.bits) (by rw [hlen]; exact fskModPlan_of_ready s.env _ hmod)
  rw [hlen] at hfit hfull
  refine ⟨hfull, fun hle => ?_⟩
  obtain ⟨t, ht, hstored⟩ := hfit hle
  obtain ⟨hsampLen, hbefore, hwave, hrest⟩ := hstored.symbols hlen hpos (sps_pos hrates)
  exact ⟨t, ht, hsampLen, hbefore, fun j hj k hk => by rw [hwave j hj k hk, getD_fskWave s hj hk], hrest⟩

/-- Settles O36: after the check of the length, the plan stores one tone a pair of bits. -/
theorem qpskModulateResult : Obligations.QpskModulateResult := by
  unfold Obligations.QpskModulateResult
  intro s hmod
  have ⟨hready, hfits, hpos, hrates, _, hlevel⟩ := hmod
  have hin := fits_of_input (i := .qpskMod) rfl hfits
  have hplan := qpskModPlan_of_ready s.env (encode .qpskMod) hmod
  have hlen : (qpskWave s Config.numerics.arith s.bits).length = s.bitLen.toNat / 2 * s.sps := by
    rw [length_qpskWave, State.length_bits]
  by_cases heven : s.bitLen.toNat % 2 = 0
  · rw [decide_eq_true heven, need_true, ok_bind] at hplan
    obtain ⟨store, hs, hA, -⟩ := Config.numerics.lawful
    obtain ⟨hfit, hfull⟩ := exec_of_planWave (i := .qpskMod) (by decide) (by decide) hready hin hlevel
      (allSamples_qpskWave hs hA s s.bits) (by rw [hlen]; exact hplan)
    rw [hlen] at hfit hfull
    refine ⟨fun hodd => absurd heven hodd, fun _ => hfull, fun _ hle => ?_⟩
    obtain ⟨t, ht, hstored⟩ := hfit hle
    obtain ⟨hsampLen, hbefore, hwave, hrest⟩ := hstored.symbols hlen (by omega) (sps_pos hrates)
    refine ⟨t, ht, hsampLen, hbefore, fun j hj k hk => ?_, hrest⟩
    rw [hwave j hj k hk, getD_qpskWave s hj hk]
    cases s.bitAt (2 * j) <;> cases s.bitAt (2 * j + 1) <;> rfl
  · rw [decide_eq_false heven, need_false, error_bind] at hplan
    exact ⟨fun _ => exec_of_plan_error (by decide) (by decide) hready.1 hin hplan, fun h => absurd h heven,
      fun h => absurd h heven⟩

theorem env_tbMod (s : State) : s.env.tbMod = Config.tbMod := rfl

/-- An answer that is no valid waveform raises `ERR_EXTERNAL` with the command word (R141). -/
theorem exec_tbMod_of_invalid (h : s.ModReady .tb)
    (hinvalid : validWave (encode .tbMod) (Config.tbMod s.bits s.rate.toNat s.symRate.toNat) =
      .error (Raise.of .external 0x250)) : exec .tbMod s = .next (s.faulted .external 0x250) := by
  have hplan := tbModPlan_of_ready s.env (encode .tbMod) h
  rw [env_tbMod, hinvalid, error_bind] at hplan
  exact exec_of_plan_error (by decide) (by decide) h.1.1 (fits_of_input rfl h.2.1) hplan

theorem not_allSamples_iff {l : List F32} : ¬ AllSamples l ↔ ∃ x ∈ l, F32.isSample x = false := by
  simp [AllSamples]

theorem validWave_of_not_allSamples {l : List F32} (w : Word) (h : ¬ AllSamples l) :
    validWave w (some l) = .error { code := .external, info := w } :=
  if_neg fun hall => h (List.all_eq_true.1 hall)

theorem validWave_of_allSamples {l : List F32} (w : Word) (h : AllSamples l) : validWave w (some l) = .ok l :=
  if_pos (List.all_eq_true.2 h)

/-- Settles O37: the codec's answer is checked, then the plan stores it. -/
theorem toneBlockModulateResult : Obligations.ToneBlockModulateResult := by
  unfold Obligations.ToneBlockModulateResult
  intro s hmod
  have ⟨hready, hfits, _, _, _, hlevel⟩ := hmod
  cases hanswer : Config.tbMod s.bits s.rate.toNat s.symRate.toNat with
  | none => exact ⟨_, exec_tbMod_of_invalid hmod (by rw [hanswer]; rfl), rfl⟩
  | some l =>
    by_cases hw : AllSamples l
    · have hplan := tbModPlan_of_ready s.env (encode .tbMod) hmod
      rw [env_tbMod, hanswer, validWave_of_allSamples _ hw, ok_bind] at hplan
      have hvalid : ¬ ∃ x ∈ l, F32.isSample x = false := fun hbad => not_allSamples_iff.2 hbad hw
      obtain ⟨hfit, hfull⟩ := exec_of_planWave (i := .tbMod) (by decide) (by decide) hready (fits_of_input rfl hfits)
        hlevel hw hplan
      obtain hlt | hle := Nat.lt_or_ge s.impl.capSamples (2 * s.pad.toNat + l.length)
      · exact ⟨_, hfull hlt, fun h => absurd h hvalid, fun _ _ => rfl, fun _ h => absurd h (Nat.not_le.2 hlt)⟩
      · obtain ⟨t, ht, hsampLen, hbefore, hwave, hafter, hended, hframe⟩ := hfit hle
        exact ⟨t, ht, fun h => absurd h hvalid, fun _ h => absurd h (Nat.not_lt.2 hle),
          fun _ _ => ⟨hsampLen, hbefore, hwave, hafter, hended, hframe⟩⟩
    · exact ⟨_, exec_tbMod_of_invalid hmod (by rw [hanswer, validWave_of_not_allSamples _ hw]; rfl), fun _ => rfl,
        fun h => absurd h hw, fun h => absurd h hw⟩

end Sys2Proof.Machine
end

section
/-!
SUPPORT. The demodulators and decoders: which bits each window gives, and what the commands `*.DEM` and `*.DECODE` leave
(44_modulators.md R131, R134, R137, R139, R142).
-/

namespace Sys2Proof.Machine

variable {R D : Type} {i : Instr} {s : State}

/-! ## The plans -/

section
variable (E : Env R D) {sch : Scheme} (w : Word)

theorem demPlan_of_ready (h : s.DemReady sch) :
    demPlan E sch w s = demodulate E s sch w s.samples s.offset.toNat >>= fun b =>
      s.planBits b (Flags.written b) := by
  obtain ⟨-, -, hpos, hrates, hscheme, hsamples⟩ := h
  have hcheck : s.checkScheme sch .demodulate w = .ok () := State.checkScheme_of_ok w ⟨hrates, hscheme⟩
  rw [demPlan, hcheck, ok_bind, State.waveform_of_ok hsamples hpos, ok_bind]

theorem decodePlan_of_ready (hd : s.HamOk) (h : s.DemReady sch) :
    decodePlan E sch w s = decodeAt E s sch w s.samples s.offset.toNat >>= fun p =>
      s.planBits p.1 (Flags.search p.1 p.2) := by
  obtain ⟨-, -, hpos, hrates, hscheme, hsamples⟩ := h
  have hcheck : s.checkScheme sch .framed w = .ok () := State.checkScheme_of_ok w ⟨hrates, hscheme, hd⟩
  rw [decodePlan, hcheck, ok_bind, State.waveform_of_ok hsamples hpos, ok_bind]

end

theorem fskDemPlan_of_ready (h : s.DemReady .fsk) :
    Instr.plan s.env s .fskDem = s.planBits (fskDem s Config.numerics.arith s.samples s.offset.toNat)
      (Flags.written (fskDem s Config.numerics.arith s.samples s.offset.toNat)) :=
  demPlan_of_ready s.env _ h

theorem qpskDemPlan_of_ready (h : s.DemReady .qpsk) :
    Instr.plan s.env s .qpskDem = s.planBits (qpskDem s Config.numerics.arith s.samples s.offset.toNat)
      (Flags.written (qpskDem s Config.numerics.arith s.samples s.offset.toNat)) :=
  demPlan_of_ready s.env _ h

theorem env_tbDem (s : State) : s.env.tbDem = Config.tbDem := rfl

/-- An answer that is no bit sequence raises `ERR_EXTERNAL` with the command word (60_exceptions.md R185; log 18). -/
theorem demodulate_tb_of_none {w : Word} {wv : List F32} {off : Nat}
    (h : Config.tbDem wv s.rate.toNat s.symRate.toNat off = none) :
    demodulate s.env s .tb w wv off = .error { code := .external, info := w } := by
  unfold demodulate
  rw [env_tbDem, h]

theorem demodulate_tb_of_some {w : Word} {wv : List F32} {off : Nat} {b : Bits}
    (h : Config.tbDem wv s.rate.toNat s.symRate.toNat off = some b) : demodulate s.env s .tb w wv off = .ok b := by
  unfold demodulate
  rw [env_tbDem, h]

theorem decodeAt_of_error {E : Env R D} {sch : Scheme} {w : Word} {wv : List F32} {off : Nat} {r : Raise}
    (h : demodulate E s sch w wv off = .error r) : decodeAt E s sch w wv off = .error r := by
  rw [decodeAt, h]

theorem decodeAt_of_ok {E : Env R D} {sch : Scheme} {w : Word} {wv : List F32} {off : Nat} {b : Bits}
    (h : demodulate E s sch w wv off = .ok b) : decodeAt E s sch w wv off = .ok (unwrapFrame s.hamDSize b) := by
  rw [decodeAt, h]

/-- How a command ends whose result is the bits `v`: with `ERR_CAPACITY` if they do not fit, else with them stored
(20_memory.md R44). -/
theorem exec_of_planBits_cases {v : Bits} {f : Flags} (hr : i ≠ .reset) (hc : i ≠ .clrErr) (hready : s.Ready)
    (hin : ∀ b, Instr.input i = some b → s.Fits b) (hplan : Instr.plan s.env s i = s.planBits v f) :
    ∃ t, exec i s = .next t ∧ (s.impl.capBits < v.length → t = s.faulted .capacity 0x64) ∧
      (v.length ≤ s.impl.capBits → t.bits = v ∧ Ended s t f ∧ WritesOnlyBits s t) := by
  obtain ⟨hfit, hfull⟩ := exec_of_planBits hr hc hready hin hplan
  obtain hlt | hle := Nat.lt_or_ge s.impl.capBits v.length
  · exact ⟨_, hfull hlt, fun _ => rfl, fun hle => absurd hle (Nat.not_le.2 hlt)⟩
  · obtain ⟨t, ht, hstored⟩ := hfit hle
    exact ⟨t, ht, fun hlt => absurd hlt (Nat.not_lt.2 hle), fun _ => hstored⟩

/-! ## The windows and their bits -/

theorem State.bitAt_of_bits_eq {v : Bits} (h : s.bits = v) {j : Nat} {b : Bool} (hj : v[j]? = some b) :
    s.bitAt j = b := by
  subst h
  obtain ⟨hlt, hget⟩ := List.getElem?_eq_some_iff.1 hj
  rw [← hget, State.getElem_bits]

theorem nWin_samples (s : State) (off : Nat) :
    nWin s.sps s.samples off = if off ≤ s.sampLen.toNat then (s.sampLen.toNat - off) / s.sps else 0 := by
  rw [nWin, State.length_samples]

theorem getElem_windows {sps : Nat} {wv : List F32} {off j : Nat} (hj : j < (windows sps wv off).length) :
    (windows sps wv off)[j] = win sps wv off j := by
  simp [windows]

theorem length_fskDem (s : State) (A : Arith R) (wv : List F32) (off : Nat) :
    (fskDem s A wv off).length = nWin s.sps wv off := by
  rw [fskDem, List.length_map, length_windows]

theorem getElem?_fskDem (s : State) (A : Arith R) {wv : List F32} {off j : Nat} (hj : j < nWin s.sps wv off) :
    (fskDem s A wv off)[j]? = some (fskBit s A (win s.sps wv off j)) := by
  have hj' : j < (windows s.sps wv off).length := by rwa [length_windows]
  rw [fskDem, List.getElem?_map, List.getElem?_eq_getElem hj', getElem_windows, Option.map_some]

theorem length_qpskPair (s : State) (A : Arith R) (w : List F32) : (qpskPair s A w).length = 2 := length_bitsOfNat 2 _

theorem length_qpskDem (s : State) (A : Arith R) (wv : List F32) (off : Nat) :
    (qpskDem s A wv off).length = 2 * nWin s.sps wv off := by
  rw [qpskDem, length_flatMap_of_length fun w _ => length_qpskPair s A w, length_windows, Nat.mul_comm]

theorem getElem?_qpskDem (s : State) (A : Arith R) {wv : List F32} {off j k : Nat} (hj : j < nWin s.sps wv off)
    (hk : k < 2) : (qpskDem s A wv off)[2 * j + k]? = (qpskPair s A (win s.sps wv off j))[k]? := by
  have hj' : j < (windows s.sps wv off).length := by rwa [length_windows]
  rw [qpskDem, Nat.mul_comm, getElem?_flatMap_of_length (fun w _ => length_qpskPair s A w) hj' hk, getElem_windows]

/-! ## The winning key -/

/-- Of the keys below `n`, `k` is the lowest whose power none exceeds (R137). -/
structure IsLowestMax (A : Arith R) (p : Nat → R) (n k : Nat) : Prop where
  lt : k < n
  max : ∀ m < n, A.gt (p m) (p k) = false
  lowest : ∀ m < k, A.gt (p k) (p m) = true

section
variable {A : Arith R} {real : R → ℝ} {store : ℝ → F32} (hA : A.Lawful real store) (p : Nat → R)
include hA

theorem gt_eq_false_iff (a b : R) : A.gt a b = false ↔ real a ≤ real b := by
  rw [← not_lt, ← hA.gt_iff, Bool.not_eq_true]

theorem isLowestMax_one : IsLowestMax A p 1 0 where
  lt := Nat.one_pos
  max m hm := by
    rw [Nat.lt_one_iff.1 hm, gt_eq_false_iff hA]
  lowest m hm := absurd hm (Nat.not_lt_zero m)

/-- The next key wins if it beats the best so far. -/
theorem IsLowestMax.succ {n k : Nat} (h : IsLowestMax A p n k) :
    IsLowestMax A p (n + 1) (if A.gt (p n) (p k) then n else k) := by
  obtain ⟨hlt, hmax, hlowest⟩ := h
  simp only [gt_eq_false_iff hA] at hmax
  by_cases hgt : A.gt (p n) (p k) = true
  · rw [if_pos hgt]
    have hkn := (hA.gt_iff _ _).1 hgt
    refine ⟨Nat.lt_succ_self n, fun m hm => ?_, fun m hm => (hA.gt_iff _ _).2 ((hmax m hm).trans_lt hkn)⟩
    rw [gt_eq_false_iff hA]
    obtain hm | rfl := Nat.lt_succ_iff_lt_or_eq.1 hm
    · exact ((hmax m hm).trans_lt hkn).le
    · exact le_rfl
  · rw [if_neg hgt]
    refine ⟨Nat.lt_succ_of_lt hlt, fun m hm => ?_, hlowest⟩
    obtain hm | rfl := Nat.lt_succ_iff_lt_or_eq.1 hm
    · exact (gt_eq_false_iff hA _ _).2 (hmax m hm)
    · exact Bool.eq_false_iff.2 hgt

theorem isLowestMax_argMax : IsLowestMax A p 4 (argMax A p) :=
  (((isLowestMax_one hA p).succ hA p).succ hA p).succ hA p

end

/-! ## `FSK.DEM`, `QPSK.DEM` and `TB.DEM` -/

/-- Settles O38: the plan stores one bit a window. -/
theorem fskDemodulateResult : Obligations.FskDemodulateResult := by
  unfold Obligations.FskDemodulateResult
  intro s hdem
  have ⟨hready, hfits, _⟩ := hdem
  have hwindows := nWin_samples s s.offset.toNat
  have hlen := (length_fskDem s Config.numerics.arith s.samples s.offset.toNat).trans hwindows
  obtain ⟨hfit, hfull⟩ := exec_of_planBits (by decide) (by decide) hready (fits_of_input rfl hfits)
    (fskDemPlan_of_ready hdem)
  rw [Flags.written_eq, hlen] at hfit
  rw [hlen] at hfull
  refine ⟨hfull, fun hle => ?_⟩
  obtain ⟨t, ht, hbits, hended, hframe⟩ := hfit hle
  refine ⟨t, ht, ?_, hbits, fun j hj => ?_, hended, hframe⟩
  · rw [← State.length_bits, hbits, hlen]
  · exact State.bitAt_of_bits_eq hbits (getElem?_fskDem s _ (hwindows.symm ▸ hj))

/-- The bits of a window are those of its winning key (R137). -/
theorem getElem?_qpskPair (s : State) (A : Arith R) (w : List F32) {k : Nat} (hk : k < 2) :
    (qpskPair s A w)[k]? =
      some ((argMax A fun m => detect A s.impl.roundTie w (s.qpskFreq A m) s.rate.toNat).testBit (1 - k)) := by
  rw [List.getElem?_eq_getElem (by rwa [length_qpskPair])]
  exact congrArg some (getElem_bitsOfNat 2 _ k _)

/-- Settles O39: the plan stores the two bits of each window's winning key. -/
theorem qpskDemodulateResult : Obligations.QpskDemodulateResult := by
  unfold Obligations.QpskDemodulateResult
  intro s hdem
  have ⟨hready, hfits, _⟩ := hdem
  have hwindows := nWin_samples s s.offset.toNat
  have hlen := length_qpskDem s Config.numerics.arith s.samples s.offset.toNat
  rw [hwindows] at hlen
  obtain ⟨hfit, hfull⟩ := exec_of_planBits (by decide) (by decide) hready (fits_of_input rfl hfits)
    (qpskDemPlan_of_ready hdem)
  rw [Flags.written_eq, hlen] at hfit
  simp only [Nat.mul_eq_zero, OfNat.ofNat_ne_zero, false_or] at hfit
  rw [hlen] at hfull
  refine ⟨hfull, fun hle => ?_⟩
  obtain ⟨t, ht, hbits, hended, hframe⟩ := hfit hle
  refine ⟨t, ht, ?_, hbits, fun j hj => ?_, hended, hframe⟩
  · rw [← State.length_bits, hbits, hlen]
  · obtain ⟨store, -, hA, -⟩ := Config.numerics.lawful
    have hbit {k : Nat} (hk : k < 2) :=
      State.bitAt_of_bits_eq hbits
        ((getElem?_qpskDem s Config.numerics.arith (hwindows.symm ▸ hj) hk).trans (getElem?_qpskPair s _ _ hk))
    obtain ⟨hlt, hmax, hlowest⟩ := isLowestMax_argMax hA _
    exact ⟨_, hlt, hbit Nat.zero_lt_two, hbit Nat.one_lt_two, hmax, hlowest⟩

/-- Settles O40: the codec's answer is checked, then the plan stores it. -/
theorem toneBlockDemodulateResult : Obligations.ToneBlockDemodulateResult := by
  unfold Obligations.ToneBlockDemodulateResult
  intro s hdem
  have ⟨hready, hfits, _⟩ := hdem
  have hin := fits_of_input (i := .tbDem) rfl hfits
  have hplan := demPlan_of_ready s.env (encode .tbDem) hdem
  cases hanswer : Config.tbDem s.samples s.rate.toNat s.symRate.toNat s.offset.toNat with
  | none =>
    rw [demodulate_tb_of_none hanswer, error_bind] at hplan
    exact ⟨_, exec_of_plan_error (code := .external) (info := 0x251) (by decide) (by decide) hready.1 hin hplan, rfl⟩
  | some b =>
    rw [demodulate_tb_of_some hanswer, ok_bind] at hplan
    exact exec_of_planBits_cases (i := .tbDem) (by decide) (by decide) hready hin hplan

/-! ## The three `DECODE` commands -/

/-- A decoder whose demodulation answers bits stores what stripping the frame leaves of them (R139). -/
theorem exec_of_decodePlan {sch : Scheme} {w : Word} {b : Bits} (hr : i ≠ .reset) (hc : i ≠ .clrErr)
    (hin : Instr.input i = some .samp) (hplan : Instr.plan s.env s i = decodePlan s.env sch w s) (hd : s.HamOk)
    (hdem : s.DemReady sch) (hb : demodulate s.env s sch w s.samples s.offset.toNat = .ok b) :
    let p := unwrapFrame s.hamDSize b
    ∃ t, exec i s = .next t ∧ (s.impl.capBits < p.1.length → t = s.faulted .capacity 0x64) ∧
      (p.1.length ≤ s.impl.capBits → t.bits = p.1 ∧ Ended s t (Flags.search p.1 p.2) ∧ WritesOnlyBits s t) := by
  rw [decodePlan_of_ready s.env w hd hdem, decodeAt_of_ok hb, ok_bind] at hplan
  obtain ⟨hready, hfits, -⟩ := hdem
  exact exec_of_planBits_cases hr hc hready (fits_of_input hin hfits) hplan

/-- Settles O41: each plan stores what stripping the frame leaves of the demodulated bits. -/
theorem decodeIsDemodulateThenUnwrap : Obligations.DecodeIsDemodulateThenUnwrap := by
  unfold Obligations.DecodeIsDemodulateThenUnwrap
  intro s hd
  refine ⟨fun hdem => exec_of_decodePlan (by decide) (by decide) rfl rfl hd hdem rfl,
    fun hdem => exec_of_decodePlan (by decide) (by decide) rfl rfl hd hdem rfl, fun hdem => ?_⟩
  cases hanswer : Config.tbDem s.samples s.rate.toNat s.symRate.toNat s.offset.toNat with
  | none =>
    have hplan := decodePlan_of_ready s.env (encode .tbDecode) hd hdem
    rw [decodeAt_of_error (demodulate_tb_of_none hanswer), error_bind] at hplan
    exact ⟨_, exec_of_plan_error (code := .external) (info := 0x252) (by decide) (by decide) hdem.1.1
      (fits_of_input rfl hdem.2.1) hplan, rfl⟩
  | some b => exact exec_of_decodePlan (by decide) (by decide) rfl rfl hd hdem (demodulate_tb_of_some hanswer)

end Sys2Proof.Machine
end

section
/-!
SUPPORT. The order of the checks: `checkScheme` makes the checks of the table one after the other, and it is the first
thing a scheme command does (44_modulators.md R140; 60_exceptions.md R193).
-/

namespace Sys2Proof.Machine

variable {s : State}

/-! ## Runs of checks -/

/-- A row of the table as a check. -/
def SchemeCheck.run (c : SchemeCheck) : Except Raise Unit := need c.1 c.2.1 c.2.2

theorem firstFailure_cons (c : Except Raise Unit) (rest : List (Except Raise Unit)) :
    firstFailure (c :: rest) = c >>= fun _ => firstFailure rest := by
  cases c <;> rfl

theorem firstFailure_append (l m : List (Except Raise Unit)) :
    firstFailure (l ++ m) = firstFailure l >>= fun _ => firstFailure m := by
  induction l with
  | nil => rfl
  | cons c rest ih => rw [List.cons_append, firstFailure_cons, firstFailure_cons, ih, bind_assoc]

theorem firstFailure_append_congr {k l m n : List (Except Raise Unit)} (hkl : firstFailure k = firstFailure l)
    (hmn : firstFailure m = firstFailure n) : firstFailure (k ++ m) = firstFailure (l ++ n) := by
  rw [firstFailure_append, firstFailure_append, hkl, hmn]

/-- Two conditions with one fault are two checks. -/
theorem need_and (a b : Bool) (code : ErrCode) (info : Nat) :
    need (a && b) code info = need a code info >>= fun _ => need b code info := by
  cases a <;> rfl

/-! ## The conditions of the table -/

theorem isPositive_eq_positiveRat (x : F32) : F32.isPositive x = positiveRat x := by
  simp only [F32.isPositive, positiveRat, F32.rat_pos_iff]

theorem not_sameValue_eq_differRat (x y : F32) : (!F32.sameValue x y) = differRat x y := by
  simp only [F32.sameValue, differRat, ne_eq, F32.rat_eq_rat_iff, decide_not]

theorem isNonneg_eq_decide_rat (x : F32) : F32.isNonneg x = (F32.isFinite x && decide (0 ≤ F32.rat x)) := by
  simp only [F32.isNonneg, F32.rat_nonneg_iff]

/-! ## The table -/

theorem checkSymRate_eq_run (s : State) : s.checkSymRate =
    SchemeCheck.run (decide (0 < s.symRate.toNat ∧ s.symRate.toNat ≤ s.rate.toNat), .config, 0x14) := by
  rw [State.checkSymRate, ← Bool.decide_and]
  rfl

theorem checkLevel_eq_run (s : State) : s.checkLevel =
    SchemeCheck.run (F32.isFinite s.level && decide (0 ≤ F32.rat s.level), .config, 0x4C) := by
  rw [State.checkLevel, isNonneg_eq_decide_rat]
  rfl

theorem checkHam_eq_run (s : State) : s.checkHam =
    SchemeCheck.run (decide (s.hamDSize = 4 ∨ s.hamDSize = 8), .config, 0x10) := by
  rw [State.checkHam, beq_eq_decide, beq_eq_decide, ← Bool.decide_or]
  rfl

/-- Step 4: a multiplier that must differ from several others has one row for each. -/
theorem firstFailure_freqChecks (s : State) (sch : Scheme) :
    firstFailure (s.freqChecks sch) = firstFailure ((s.schemeStep4 sch).map SchemeCheck.run) := by
  cases sch <;>
    simp only [State.freqChecks, State.schemeStep4, List.map_cons, List.map_nil, SchemeCheck.run, firstFailure_cons,
      need_and, bind_assoc, isPositive_eq_positiveRat, not_sameValue_eq_differRat]

/-- `checkScheme` makes the checks of the table in its order. -/
theorem checkScheme_eq_table (s : State) (sch : Scheme) (role : Role) (w : Word) :
    s.checkScheme sch role w = firstFailure ((s.schemeTable sch role w).map SchemeCheck.run) := by
  rw [State.checkScheme.eq_def, State.schemeTable, List.map_append, List.map_append, List.map_append,
    checkSymRate_eq_run, checkLevel_eq_run, checkHam_eq_run]
  refine firstFailure_append_congr (firstFailure_append_congr (firstFailure_append_congr ?_ rfl)
    (firstFailure_freqChecks s sch)) ?_
  · cases sch <;> rfl
  · cases role <;> rfl

/-- A scheme command checks its scheme first (R140). -/
theorem plan_of_scheme {R D : Type} (E : Env R D) {i : Instr} {sch : Scheme} {role : Role} (s : State)
    (hi : Instr.scheme i = some (sch, role)) :
    ∃ f : Unit → Except Raise Plan, Instr.plan E s i = s.checkScheme sch role (encode i) >>= f := by
  by_cases hrole : role = .modulate
  · subst hrole
    obtain ⟨-, f, hplan⟩ := plan_of_modulator E s hi
    exact ⟨_, hplan⟩
  · obtain ⟨-, f, hplan⟩ := plan_of_receiver E s hi hrole
    exact ⟨_, hplan⟩

/-- Settles O42: the first row that fails is the one `checkScheme` reports, and with it the command ends. -/
theorem schemeCheckOrder : Obligations.SchemeCheckOrder := by
  unfold Obligations.SchemeCheckOrder
  intro i sch role s hi hready hfits before after code info htable hbefore
  obtain ⟨f, hplan⟩ := plan_of_scheme s.env s hi
  have hcheck : s.checkScheme sch role (encode i) = .error (Raise.of code info) := by
    rw [checkScheme_eq_table, htable, List.map_append]
    refine firstFailure_append_error _ _ _ (List.forall_mem_map.2 fun c hc => ?_)
    rw [SchemeCheck.run, hbefore c hc, need_true]
  rw [hcheck, error_bind] at hplan
  exact exec_of_plan_error (by rintro rfl; cases hi) (by rintro rfl; cases hi) hready.1 hfits hplan

end Sys2Proof.Machine
end

section
/-!
SUPPORT. The detector over the real numbers (45_goertzel.md R152, R153, R156): its recurrence is Horner's rule for one
bin of the discrete Fourier transform, and a sine on a bin is two roots of unity.
-/

namespace Sys2Proof.Machine

/-! ## The sum of a bin -/

/-- `∑ x_j · z^j`: bin k of the transform is this at `z = e^(-2πi·k/N)`. -/
noncomputable def powerSum (z : ℂ) (xs : List ℝ) : ℂ := ∑ j ∈ Finset.range xs.length, (xs.getD j 0 : ℂ) * z ^ j

@[simp] theorem powerSum_nil (z : ℂ) : powerSum z [] = 0 := rfl

@[simp] theorem powerSum_cons (z : ℂ) (x : ℝ) (xs : List ℝ) : powerSum z (x :: xs) = x + z * powerSum z xs := by
  simp only [powerSum, List.length_cons, Finset.sum_range_succ', List.getD_cons_succ, List.getD_cons_zero, pow_zero,
    mul_one, Finset.mul_sum, pow_succ]
  rw [add_comm]
  congr 1
  exact Finset.sum_congr rfl fun j _ => by ring

theorem powerSum_map_mul (z : ℂ) (a : ℝ) (xs : List ℝ) : powerSum z (xs.map fun x => a * x) = a * powerSum z xs := by
  induction xs with
  | nil => simp
  | cons x rest ih =>
    rw [List.map_cons, powerSum_cons, powerSum_cons, ih, Complex.ofReal_mul]
    ring

theorem norm_powerSum_le {z : ℂ} (hz : ‖z‖ = 1) (xs : List ℝ) : ‖powerSum z xs‖ ≤ (xs.map fun x => |x|).sum := by
  induction xs with
  | nil => simp
  | cons x rest ih =>
    rw [powerSum_cons, List.map_cons, List.sum_cons]
    calc ‖(x : ℂ) + z * powerSum z rest‖
        ≤ ‖(x : ℂ)‖ + ‖z * powerSum z rest‖ := norm_add_le _ _
      _ = |x| + ‖powerSum z rest‖ := by rw [norm_mul, hz, one_mul, Complex.norm_real, Real.norm_eq_abs]
      _ ≤ |x| + (rest.map fun x => |x|).sum := by gcongr

theorem powerSum_map_range (z : ℂ) (n : ℕ) (f : ℕ → ℝ) :
    powerSum z ((List.range n).map f) = ∑ j ∈ Finset.range n, (f j : ℂ) * z ^ j := by
  rw [powerSum, List.length_map, List.length_range]
  refine Finset.sum_congr rfl fun j hj => ?_
  simp [List.getD_eq_getElem?_getD, Finset.mem_range.1 hj]

/-! ## Powers of the N-th root of unity -/

/-- `e^(2πi·m/n)`. -/
noncomputable def rootPow (n : ℕ) (m : ℤ) : ℂ := Complex.exp ((2 * Real.pi * (m / n) : ℝ) * Complex.I)

theorem norm_rootPow (n : ℕ) (m : ℤ) : ‖rootPow n m‖ = 1 := Complex.norm_exp_ofReal_mul_I _

theorem rootPow_pow (n : ℕ) (m : ℤ) (j : ℕ) : rootPow n m ^ j = rootPow n (m * j) := by
  rw [rootPow, rootPow, ← Complex.exp_nat_mul]
  push_cast
  ring_nf

theorem rootPow_add (n : ℕ) (l m : ℤ) : rootPow n (l + m) = rootPow n l * rootPow n m := by
  rw [rootPow, rootPow, rootPow, ← Complex.exp_add]
  push_cast
  ring_nf

theorem rootPow_eq_one_iff {n : ℕ} (hn : n ≠ 0) (m : ℤ) : rootPow n m = 1 ↔ (n : ℤ) ∣ m := by
  have hn' : (n : ℂ) ≠ 0 := Nat.cast_ne_zero.2 hn
  have hturns : ((2 * Real.pi * (m / n) : ℝ) * Complex.I : ℂ) = m / n * (2 * Real.pi * Complex.I) := by
    push_cast
    ring
  rw [rootPow, hturns, Complex.exp_eq_one_iff]
  refine exists_congr fun c => ?_
  rw [mul_left_inj' Complex.two_pi_I_ne_zero, div_eq_iff hn', mul_comm (c : ℂ)]
  norm_cast

/-- The DFT basis is orthogonal: the powers of a root of unity cancel unless it is 1. -/
theorem sum_rootPow {n : ℕ} (hn : n ≠ 0) (m : ℤ) :
    ∑ j ∈ Finset.range n, rootPow n m ^ j = if (n : ℤ) ∣ m then (n : ℂ) else 0 := by
  split
  case isTrue hdvd => simp [(rootPow_eq_one_iff hn m).2 hdvd]
  case isFalse hdvd =>
    have hpow : rootPow n m ^ n = 1 := by
      rw [rootPow_pow, rootPow_eq_one_iff hn]
      exact dvd_mul_left _ _
    rw [geom_sum_eq (mt (rootPow_eq_one_iff hn m).1 hdvd), hpow, sub_self, zero_div]

theorem dftBin_eq_powerSum (xs : List ℝ) (k : ℕ) : dftBin xs k = powerSum (rootPow xs.length (-k)) xs := by
  rw [dftBin, powerSum, Finset.sum_range]
  refine Finset.sum_congr rfl fun j _ => ?_
  rw [rootPow_pow, rootPow]
  push_cast
  simp only [Fin.getElem_fin, List.getD_eq_getElem?_getD, List.getElem?_eq_getElem j.isLt, Option.getD_some]
  ring_nf

/-! ## The recurrence -/

/-- The pair of the recurrence as one number: a turn multiplies it by `1/z` and adds the sample. -/
noncomputable def pairValue (z : ℂ) (q : ℝ × ℝ) : ℂ := q.1 - z * q.2

/-- On the unit circle `z + 1/z` is twice the real part. -/
theorem mul_two_re_of_norm_eq_one {z : ℂ} (hz : ‖z‖ = 1) : z * ((2 * z.re : ℝ) : ℂ) = 1 + z ^ 2 := by
  have hconj : z * (starRingEnd ℂ) z = 1 := by
    rw [Complex.mul_conj, Complex.normSq_eq_norm_sq, hz, one_pow, Complex.ofReal_one]
  rw [← Complex.add_conj, mul_add, hconj]
  ring

/-- One turn is one step of Horner's rule. -/
theorem mul_pairValue_step (toF32 : ℝ → F32) {z : ℂ} {c : ℝ} (hc : z * c = 1 + z ^ 2) (q : ℝ × ℝ) (x : ℝ) :
    z * pairValue z (goertzelStep (realArith toF32) c q x) = pairValue z q + z * x := by
  show z * (((c * q.1 - q.2 + x : ℝ) : ℂ) - z * q.1) = q.1 - z * q.2 + z * x
  push_cast
  linear_combination (q.1 : ℂ) * hc

theorem pow_mul_pairValue_foldl (toF32 : ℝ → F32) {z : ℂ} {c : ℝ} (hc : z * c = 1 + z ^ 2) (xs : List ℝ)
    (q : ℝ × ℝ) : z ^ xs.length * pairValue z (xs.foldl (goertzelStep (realArith toF32) c) q) =
      pairValue z q + z * powerSum z xs := by
  induction xs generalizing q with
  | nil => simp
  | cons x rest ih =>
    rw [List.foldl_cons, List.length_cons, pow_succ', mul_assoc, ih, powerSum_cons, mul_add,
      mul_pairValue_step toF32 hc]
    ring

/-- The root is the modulus of the pair's number (R152). -/
theorem goertzelResult_real (toF32 : ℝ → F32) {z : ℂ} (hz : ‖z‖ = 1) (q : ℝ × ℝ) :
    goertzelResult (realArith toF32) (2 * z.re) q = ‖pairValue z q‖ := by
  have hunit : z.re * z.re + z.im * z.im = 1 := by
    rw [← Complex.normSq_apply, Complex.normSq_eq_norm_sq, hz, one_pow]
  show √(q.1 * q.1 + q.2 * q.2 - q.1 * q.2 * (2 * z.re)) = _
  rw [Complex.norm_def, Complex.normSq_apply]
  congr 1
  simp only [pairValue, Complex.sub_re, Complex.sub_im, Complex.mul_re, Complex.mul_im, Complex.ofReal_re,
    Complex.ofReal_im]
  linear_combination -(q.2 * q.2) * hunit

/-- The recurrence and the root give the modulus of the sum at the unit `z` whose real part is half the coefficient. -/
theorem goertzelResult_goertzelPair (toF32 : ℝ → F32) {z : ℂ} (hz : ‖z‖ = 1) (xs : List ℝ) :
    goertzelResult (realArith toF32) (2 * z.re) (goertzelPair (realArith toF32) (2 * z.re) xs) = ‖powerSum z xs‖ := by
  have hstart : pairValue z ((realArith toF32).ofNat 0, (realArith toF32).ofNat 0) = 0 := by
    simp [pairValue, realArith]
  have hfold := pow_mul_pairValue_foldl toF32 (mul_two_re_of_norm_eq_one hz) xs
    ((realArith toF32).ofNat 0, (realArith toF32).ofNat 0)
  rw [hstart, zero_add] at hfold
  have hnorm := congrArg norm hfold
  simp only [norm_mul, norm_pow, hz, one_pow, one_mul] at hnorm
  rw [goertzelResult_real toF32 hz]
  exact hnorm

theorem coefficient_real (toF32 : ℝ → F32) (k n : ℕ) :
    coefficient (realArith toF32) k n = 2 * (rootPow n (-k)).re := by
  show ((2 : ℕ) : ℝ) * Real.cos (2 * Real.pi * (k / n)) = _
  rw [rootPow, Complex.exp_ofReal_mul_I_re, ← Real.cos_neg]
  push_cast
  ring_nf

/-- The detector computes the modulus of one bin of the discrete Fourier transform (R153). -/
theorem goertzel_real (toF32 : ℝ → F32) (tie : RoundTie) (xs : List ℝ) (f : ℝ) (fs : ℕ) :
    goertzel (realArith toF32) tie xs f fs = ‖dftBin xs (roundReal tie (xs.length * f / fs))‖ := by
  rw [dftBin_eq_powerSum, ← goertzelResult_goertzelPair toF32 (norm_rootPow _ _), ← coefficient_real toF32]
  rfl

theorem goertzel_real_map_mul (toF32 : ℝ → F32) (tie : RoundTie) (a : ℝ) (xs : List ℝ) (f : ℝ) (fs : ℕ) :
    goertzel (realArith toF32) tie (xs.map fun x => a * x) f fs = |a| * goertzel (realArith toF32) tie xs f fs := by
  rw [goertzel_real, goertzel_real, dftBin_eq_powerSum, dftBin_eq_powerSum, List.length_map, powerSum_map_mul, norm_mul,
    Complex.norm_real, Real.norm_eq_abs]

theorem goertzel_real_le (toF32 : ℝ → F32) (tie : RoundTie) (xs : List ℝ) (f : ℝ) (fs : ℕ) :
    goertzel (realArith toF32) tie xs f fs ≤ (xs.map fun x => |x|).sum := by
  rw [goertzel_real, dftBin_eq_powerSum]
  exact norm_powerSum_le (norm_rootPow _ _) xs

/-- Settles O46: the recurrence is Horner's rule for the bin, and the rest follows from its sum. -/
theorem goertzelIsDftModulus : Obligations.GoertzelIsDftModulus := by
  unfold Obligations.GoertzelIsDftModulus
  intro toF32 tie f fs xs _ g
  have hmul : ∀ a : ℝ, g (xs.map fun x => a * x) = |a| * g xs := fun a => goertzel_real_map_mul toF32 tie a xs f fs
  have hnonneg : 0 ≤ g xs := Real.sqrt_nonneg _
  have hle : g xs ≤ (xs.map fun x => |x|).sum := goertzel_real_le toF32 tie xs f fs
  refine ⟨goertzel_real toF32 tie xs f fs, hnonneg, hle, fun hzero => ?_, fun a ha => ?_, ?_⟩
  · have hsum : (xs.map fun x => |x|).sum = 0 := List.sum_eq_zero (by simpa using hzero)
    exact le_antisymm (hsum ▸ hle) hnonneg
  · rw [hmul, abs_of_nonneg ha]
  · simpa using hmul (-1)

/-! ## A sine on a bin -/

/-- Sample j of a sine on bin `k0`, as the bins `k0` and `-k0` of the basis. -/
theorem sine_eq_rootPow (n k0 j : ℕ) (phase : ℝ) :
    (Real.sin (2 * Real.pi * k0 * j / n + phase) : ℂ) = Complex.I / 2 *
      (Complex.exp (-phase * Complex.I) * rootPow n (-k0) ^ j -
        Complex.exp (phase * Complex.I) * rootPow n k0 ^ j) := by
  rw [Complex.ofReal_sin, Complex.sin, rootPow_pow, rootPow_pow, rootPow, rootPow, ← Complex.exp_add, ← Complex.exp_add]
  push_cast
  ring_nf

/-- The window over natural indices; its definition maps over the list of their casts. -/
theorem sineWindow_eq_map_range (n : ℕ) (amp : ℝ) (k0 : ℕ) (phase : ℝ) : sineWindow n amp k0 phase =
    (List.range n).map fun j : ℕ => amp * Real.sin (2 * Real.pi * k0 * j / n + phase) := by
  rw [sineWindow, bind_pure_comp, List.map_eq_map, List.map_map]
  rfl

theorem length_sineWindow (n : ℕ) (amp : ℝ) (k0 : ℕ) (phase : ℝ) : (sineWindow n amp k0 phase).length = n := by
  rw [sineWindow_eq_map_range, List.length_map, List.length_range]

theorem dftBin_sineWindow {n : ℕ} (hn : n ≠ 0) (amp : ℝ) (k0 k : ℕ) (phase : ℝ) :
    dftBin (sineWindow n amp k0 phase) k = amp * (Complex.I / 2) *
      (Complex.exp (-phase * Complex.I) * (if (n : ℤ) ∣ -k0 + -k then (n : ℂ) else 0) -
        Complex.exp (phase * Complex.I) * (if (n : ℤ) ∣ k0 + -k then (n : ℂ) else 0)) := by
  rw [dftBin_eq_powerSum, length_sineWindow, sineWindow_eq_map_range, powerSum_map_range, ← sum_rootPow hn,
    ← sum_rootPow hn, Finset.mul_sum, Finset.mul_sum, ← Finset.sum_sub_distrib, Finset.mul_sum]
  refine Finset.sum_congr rfl fun j _ => ?_
  rw [Complex.ofReal_mul, sine_eq_rootPow, rootPow_add, rootPow_add, mul_pow, mul_pow]
  ring

/-- A bin below `n` is bin `-k0` only as its mirror. -/
theorem dvd_neg_add_neg_iff {n k0 k : ℕ} (hk0 : 0 < k0) (hlt : k0 < n) (hk : k < n) :
    (n : ℤ) ∣ -k0 + -k ↔ k = n - k0 := by
  have hsmall : |(n : ℤ) + (-k0 + -k)| < n := abs_lt.2 ⟨by omega, by omega⟩
  rw [← dvd_add_right (dvd_refl (n : ℤ))]
  refine ⟨fun h => ?_, fun h => ⟨0, by omega⟩⟩
  have hzero := Int.eq_zero_of_abs_lt_dvd h hsmall
  omega

theorem dvd_add_neg_iff {n k0 k : ℕ} (hlt : k0 < n) (hk : k < n) : (n : ℤ) ∣ k0 + -k ↔ k = k0 := by
  have hsmall : |(k0 : ℤ) + -k| < n := abs_lt.2 ⟨by omega, by omega⟩
  refine ⟨fun h => ?_, fun h => ⟨0, by omega⟩⟩
  have hzero := Int.eq_zero_of_abs_lt_dvd h hsmall
  omega

/-- Settles O47: the bins `k0` and `-k0` are the only ones in the sine, and below N/2 they are two. -/
theorem exactBinResponse : Obligations.ExactBinResponse := by
  unfold Obligations.ExactBinResponse
  intro toF32 tie n k0 k fs amp phase f hn hk0 hhalf hamp hk hround
  have hlt : k0 < n := by omega
  have hnorm : ∀ t : ℝ, ‖(amp : ℂ) * (Complex.I / 2) * (Complex.exp (t * Complex.I) * n)‖ = amp * n / 2 := by
    intro t
    rw [norm_mul, norm_mul, norm_mul, Complex.norm_exp_ofReal_mul_I, Complex.norm_real, Real.norm_of_nonneg hamp,
      norm_div, Complex.norm_I, Complex.norm_ofNat, Complex.norm_natCast]
    ring
  rw [goertzel_real, length_sineWindow, hround, dftBin_sineWindow (by omega),
    if_congr (dvd_neg_add_neg_iff hk0 hlt hk) rfl rfl, if_congr (dvd_add_neg_iff hlt hk) rfl rfl]
  obtain rfl | hbin := eq_or_ne k k0
  · have hmirror : k ≠ n - k := by omega
    rw [if_neg hmirror, if_pos rfl, if_pos (.inl rfl), mul_zero, zero_sub, mul_neg, norm_neg, hnorm]
  obtain hmirror | hmirror := eq_or_ne k (n - k0)
  · rw [if_pos hmirror, if_neg hbin, if_pos (.inr hmirror), mul_zero, sub_zero, ← Complex.ofReal_neg, hnorm]
  · rw [if_neg hmirror, if_neg hbin, if_neg (not_or.2 ⟨hbin, hmirror⟩), mul_zero, mul_zero, sub_zero, mul_zero,
      norm_zero]

end Sys2Proof.Machine
end

section
/-!
SUPPORT. The command `GOERTZEL` (45_goertzel.md R155): its checks in their order, and the detector's result in `POWER`.
-/

namespace Sys2Proof.Machine

/-! ## The plan -/

section
variable {R D : Type} (E : Env R D) {s : State}

theorem goertzelPlan_of_no_rate (h : s.rate.toNat = 0) : goertzelPlan E s = .error (Raise.of .config 0x40) := by
  rw [goertzelPlan, State.checkRate, h]
  rfl

theorem goertzelPlan_of_bad_freq (hrate : 0 < s.rate.toNat) (h : F32.isNonneg s.freq = false) :
    goertzelPlan E s = .error (Raise.of .config 0x48) := by
  rw [goertzelPlan, State.checkRate, State.checkFreq, decide_eq_true hrate, h]
  rfl

theorem goertzelPlan_of_ok (hrate : 0 < s.rate.toNat) (hfreq : F32.isNonneg s.freq = true)
    (hpos : 0 < s.sampLen.toNat) (hsamples : s.SamplesOk) : goertzelPlan E s = .ok
      { power := E.arith.toF32 (detect E.arith s.impl.roundTie s.samples (E.arith.val s.freq) s.rate.toNat) } := by
  rw [goertzelPlan, State.checkRate, State.checkFreq, decide_eq_true hrate, hfreq,
    State.waveform_of_ok hsamples hpos]
  rfl

end

/-! ## The result -/

/-- Settles O45: the plan's checks in their order, then the detector on the whole buffer.
(`goertzelResult` is the model's formula of R152.) -/
theorem goertzelCommandResult : Obligations.GoertzelResult := by
  unfold Obligations.GoertzelResult
  intro s hready hfits
  have hin := fits_of_input (i := .goertzel) rfl hfits
  refine ⟨fun h => ?_, fun hrate hfreq => ?_, fun hrate hfreq hempty => ?_, fun hrate hfreq hpos hsamples => ?_⟩
  · exact exec_of_plan_error (by decide) (by decide) hready.1 hin (goertzelPlan_of_no_rate s.env h)
  · exact exec_of_plan_error (by decide) (by decide) hready.1 hin (goertzelPlan_of_bad_freq s.env hrate hfreq)
  · exact exec_goertzel_of_waveform_error hready.1 hfits hrate hfreq (State.waveform_of_empty hempty)
  · rw [exec_of_plan_ok (by decide) (by decide) hready.1 hin (goertzelPlan_of_ok s.env hrate hfreq hpos hsamples),
      detect, goertzel, goertzelPair, List.foldl_map, List.length_map, State.length_samples]
    rfl

end Sys2Proof.Machine
end

section
/-!
SUPPORT. The scan of the synchronizer: the valid offsets below a bound, how far a scan goes, and the mean of what it
found (46_offset_sync.md R161 to R164).
-/

namespace Sys2Proof.Machine

/-! ## The valid offsets -/

/-- The valid offsets below `n`, ascending, given the decode at each (R161, R163). -/
def validBelow (dec : Nat → Bits × Bool) (n : Nat) : List Nat := (List.range n).filter fun o => !(dec o).1.isEmpty

section
variable {dec : Nat → Bits × Bool} {n : Nat}

theorem mem_validBelow {o : Nat} : o ∈ validBelow dec n ↔ o < n ∧ (dec o).1 ≠ [] := by
  simp [validBelow]

theorem validBelow_eq_nil_iff : validBelow dec n = [] ↔ ∀ o < n, (dec o).1 = [] := by
  simp [validBelow]

theorem validBelow_succ_of_valid (h : (dec n).1 ≠ []) : validBelow dec (n + 1) = validBelow dec n ++ [n] := by
  simp [validBelow, List.range_succ, h]

theorem validBelow_succ_of_invalid (h : (dec n).1 = []) : validBelow dec (n + 1) = validBelow dec n := by
  simp [validBelow, List.range_succ, h]

/-- Up to the end `a + k` of the first run, the run is all that is valid. -/
theorem validBelow_of_firstRun {a k : Nat} (hbefore : ∀ o < a, (dec o).1 = [])
    (hrun : ∀ o, a ≤ o → o ≤ a + k → (dec o).1 ≠ []) : validBelow dec (a + k + 1) = List.range' a (k + 1) := by
  induction k with
  | zero =>
    rw [Nat.add_zero, validBelow_succ_of_valid (hrun a (Nat.le_refl a) (Nat.le_refl _)),
      validBelow_eq_nil_iff.2 hbefore, List.nil_append, List.range'_one]
  | succ k ih =>
    rw [validBelow_succ_of_valid (hrun _ (Nat.le_add_right _ _) (Nat.le_refl _)),
      ← Nat.add_assoc, ih fun o hlo hhi => hrun o hlo (by omega), List.range'_1_concat (n := k + 1), Nat.add_assoc]

end

/-! ## How far a scan goes -/

/-- The scan goes on past the offsets below `n`: it tries all, or no offset below `n` that fails comes after a valid one
(R162). -/
def GoesOn (exhaustive : Bool) (dec : Nat → Bits × Bool) (n : Nat) : Prop :=
  exhaustive = true ∨ ∀ a b, a < b → b < n → (dec a).1 ≠ [] → (dec b).1 ≠ []

section
variable {f : Nat → Except Raise (Bits × Bool)} {dec : Nat → Bits × Bool} {exhaustive : Bool} {n : Nat}

/-- A scan that goes on past the offsets below `n` stands at `n` with the valid ones among them. -/
theorem scanOffsets_range_append (hf : ∀ o < n, f o = .ok (dec o)) (hgo : GoesOn exhaustive dec n) (rest : List Nat) :
    scanOffsets f exhaustive (List.range n ++ rest) [] = scanOffsets f exhaustive rest (validBelow dec n) := by
  induction n generalizing rest with
  | zero => rfl
  | succ n ih =>
    have hgo' : GoesOn exhaustive dec n := hgo.imp_right fun h a b hab hb => h a b hab (Nat.lt_succ_of_lt hb)
    rw [List.range_succ, List.append_assoc, ih (fun o ho => hf o (Nat.lt_succ_of_lt ho)) hgo', List.singleton_append,
      scanOffsets, hf n (Nat.lt_succ_self n)]
    by_cases hn : (dec n).1 = []
    · have hcontinue : exhaustive = true ∨ validBelow dec n = [] :=
        hgo.imp_right fun h => validBelow_eq_nil_iff.2 fun o ho =>
          not_ne_iff.1 fun hvalid => h o n ho (Nat.lt_succ_self n) hvalid hn
      rw [validBelow_succ_of_invalid hn]
      rcases hcontinue with h | h <;> simp [hn, h]
    · rw [validBelow_succ_of_valid hn]
      simp [hn]

theorem scanOffsets_range (hf : ∀ o < n, f o = .ok (dec o)) (hgo : GoesOn exhaustive dec n) :
    scanOffsets f exhaustive (List.range n) [] = .ok (validBelow dec n) := by
  have h := scanOffsets_range_append hf hgo []
  rwa [List.append_nil] at h

theorem range_eq_append_cons {m : Nat} (h : n < m) : ∃ rest, List.range m = List.range n ++ n :: rest := by
  obtain ⟨k, rfl⟩ := Nat.exists_eq_add_of_lt h
  exact ⟨_, by rw [Nat.add_assoc, List.range_add, List.range_succ_eq_map, List.map_cons, Nat.add_zero]⟩

/-- The first offset that answers a fault, of those the scan comes to, is where it ends. -/
theorem scanOffsets_range_of_error {m : Nat} {r : Raise} (hnm : n < m) (hf : ∀ o < n, f o = .ok (dec o))
    (hgo : GoesOn exhaustive dec n) (hr : f n = .error r) :
    scanOffsets f exhaustive (List.range m) [] = .error r := by
  obtain ⟨rest, hrest⟩ := range_eq_append_cons hnm
  rw [hrest, scanOffsets_range_append hf hgo, scanOffsets, hr]

/-- The scan of the source rule finds the first run, and it asks for no offset beyond the one after it (R162). -/
theorem scanOffsets_range_of_firstRun {a k m : Nat} (hm : a + k < m)
    (hf : ∀ o < m, o ≤ a + k + 1 → f o = .ok (dec o)) (hbefore : ∀ o < a, (dec o).1 = [])
    (hrun : ∀ o, a ≤ o → o ≤ a + k → (dec o).1 ≠ []) (hend : a + k + 1 < m → (dec (a + k + 1)).1 = []) :
    scanOffsets f false (List.range m) [] = .ok (List.range' a (k + 1)) := by
  have hgo : GoesOn false dec (a + k + 1) := .inr fun c d hcd hd hc =>
    hrun d (Nat.le_of_lt (Nat.lt_of_le_of_lt (Nat.le_of_not_lt fun hca => hc (hbefore c hca)) hcd)) (by omega)
  have hbelow : ∀ o < a + k + 1, f o = .ok (dec o) := fun o ho => hf o (by omega) (by omega)
  rw [← validBelow_of_firstRun hbefore hrun]
  obtain hlt | rfl := Nat.lt_or_eq_of_le hm
  · obtain ⟨rest, hrest⟩ := range_eq_append_cons hlt
    have hsome : validBelow dec (a + k + 1) ≠ [] := fun h =>
      hrun a (Nat.le_refl a) (Nat.le_add_right a k) (validBelow_eq_nil_iff.1 h a (by omega))
    rw [hrest, scanOffsets_range_append hbelow hgo, scanOffsets, hf _ hlt (Nat.le_refl _)]
    simp [hend hlt, hsome]
  · exact scanOffsets_range hbelow hgo

end

/-! ## The mean -/

/-- The mean of offsets below `n` is below `n`. -/
theorem meanOffset_lt {v : List Nat} {n : Nat} (hv : v ≠ []) (h : ∀ o ∈ v, o < n) : meanOffset v < n := by
  have hn : 0 < n := Nat.zero_lt_of_lt (h _ (List.head_mem hv))
  have hsum : v.sum ≤ v.length * (n - 1) := List.sum_le_card_nsmul v (n - 1) fun o ho => Nat.le_sub_one_of_lt (h o ho)
  have hmean : meanOffset v ≤ n - 1 := Nat.div_le_of_le_mul hsum
  omega

/-- The mean of a run is its middle (R164). -/
theorem meanOffset_range' (a k : Nat) : meanOffset (List.range' a (k + 1)) = (a + (a + k)) / 2 := by
  have hmiddle : (a + (a + k)) / 2 = a + k / 2 := by omega
  rw [meanOffset, List.sum_range', List.length_range', Nat.mul_one, Nat.add_sub_cancel, hmiddle,
    Nat.mul_add_div (Nat.succ_pos k), Nat.div_right_comm, Nat.mul_div_cancel_left _ (Nat.succ_pos k)]

end Sys2Proof.Machine
end

section
/-!
SUPPORT. The commands `FSK.SYNC`, `QPSK.SYNC` and `TB.SYNC`: which plan a scan gives, and what the commands leave
(46_offset_sync.md R160 to R164; 60_exceptions.md R185).
-/

namespace Sys2Proof.Machine

variable {s : State}

/-! ## The plan -/

section
variable {R D : Type} (E : Env R D) {sch : Scheme} (w : Word)

/-- What is decided once the valid offsets are known: an empty result, or the decode at their mean (R160). -/
def planFinal (s : State) (sch : Scheme) : List Nat → Except Raise Plan
  | [] => s.planSync ([], false) 0 0
  | v :: rest => decodeAt E s sch w s.samples (meanOffset (v :: rest)) >>= fun p =>
      s.planSync p (meanOffset (v :: rest)) (v :: rest).length

theorem planFinal_of_ne_nil {v : List Nat} {p : Bits × Bool} (hv : v ≠ [])
    (hp : decodeAt E s sch w s.samples (meanOffset v) = .ok p) :
    planFinal E w s sch v = s.planSync p (meanOffset v) v.length := by
  cases v with
  | nil => exact absurd rfl hv
  | cons o rest => rw [planFinal, hp, ok_bind]

theorem syncPlan_of_ready (hd : s.HamOk) (h : s.DemReady sch) :
    syncPlan E sch w s =
      scanOffsets (decodeAt E s sch w s.samples) s.syncX (List.range s.sps) [] >>= planFinal E w s sch := by
  obtain ⟨-, -, hpos, hrates, hscheme, hsamples⟩ := h
  have hcheck : s.checkScheme sch .framed w = .ok () := State.checkScheme_of_ok w ⟨hrates, hscheme, hd⟩
  rw [syncPlan, hcheck, ok_bind, State.waveform_of_ok hsamples hpos, ok_bind]
  refine congrArg _ (funext fun valid => ?_)
  cases valid <;> rfl

variable {E w} (hd : s.HamOk) (hdem : s.DemReady sch)
include hd hdem

theorem syncPlan_of_scan_error {r : Raise}
    (h : scanOffsets (decodeAt E s sch w s.samples) s.syncX (List.range s.sps) [] = .error r) :
    syncPlan E sch w s = .error r := by
  rw [syncPlan_of_ready E w hd hdem, h, error_bind]

theorem syncPlan_of_scan_nil
    (h : scanOffsets (decodeAt E s sch w s.samples) s.syncX (List.range s.sps) [] = .ok []) :
    syncPlan E sch w s = s.planSync ([], false) 0 0 := by
  rw [syncPlan_of_ready E w hd hdem, h, ok_bind, planFinal]

theorem syncPlan_of_scan {v : List Nat} {p : Bits × Bool} (hv : v ≠ [])
    (h : scanOffsets (decodeAt E s sch w s.samples) s.syncX (List.range s.sps) [] = .ok v)
    (hp : decodeAt E s sch w s.samples (meanOffset v) = .ok p) :
    syncPlan E sch w s = s.planSync p (meanOffset v) v.length := by
  rw [syncPlan_of_ready E w hd hdem, h, ok_bind, planFinal_of_ne_nil E w hv hp]

end

/-! ## What a plan leaves -/

/-- With no fault pending and an input that fits, a command is its plan, put on the state. -/
theorem exec_eq_plan_on {i : Instr} (hr : i ≠ .reset) (hc : i ≠ .clrErr) (herr : s.status.err = false)
    (hin : ∀ b, Instr.input i = some b → s.Fits b) :
    exec i s = .next ((Ending.of (Instr.plan s.env s i)).on s) := by
  cases hplan : Instr.plan s.env s i with
  | error r =>
    have hof : Raise.of r.code r.info.toNat = r := by rw [Raise.of, BitVec.ofNat_toNat, BitVec.setWidth_eq]
    rw [← hof] at hplan ⊢
    exact exec_of_plan_error hr hc herr hin hplan
  | ok p => exact exec_of_plan_ok hr hc herr hin hplan

/-- The writes of `SYNC` (R160; 20_memory.md R44), for an offset and a number of offsets that are register values. -/
theorem syncEnds_planSync (hready : s.Ready) (p : Bits × Bool) {m n : Nat} (hm : m < 2 ^ 32) (hn : n < 2 ^ 32) :
    SyncEnds s ((Ending.of (s.planSync p m n)).on s) p m n := by
  refine ⟨fun hlt => ?_, fun hle => ?_⟩
  · rw [State.planSync, State.checkCapacity_of_lt (b := .bit) hlt]
    rfl
  · obtain ⟨-, hcap, -⟩ := Params.ok_bounds hready.2
    have hv : p.1.length < 2 ^ 32 := by omega
    rw [State.planSync, State.checkCapacity_of_le (b := .bit) hle, ok_bind]
    obtain ⟨hoperands, hpower, -, hbytes, hsamples, hhost, hdraws, hbeyond⟩ :=
      writesOnlyBits_completed s (Flags.search p.1 p.2) hv
    exact ⟨s.bits_putBits p.1 hv, toNat_ofNat_of_lt hm, toNat_ofNat_of_lt hn, ⟨rfl, rfl⟩, hoperands, hpower, hbytes,
      hsamples, hhost, hdraws, hbeyond⟩

/-! ## The search -/

theorem sps_lt (s : State) : s.sps < 2 ^ 32 := Nat.lt_of_le_of_lt (Nat.div_le_self _ _) s.rate.isLt

/-- What the strip leaves is non-empty only if both markers were found (43_framing.md R121). -/
theorem found_of_unwrapFrame_ne_nil {d : Nat} {b : Bits} (h : (unwrapFrame d b).1 ≠ []) :
    (unwrapFrame d b).2 = true := by
  unfold unwrapFrame at h ⊢
  split at h
  · split at h
    · simp [*]
    · exact absurd rfl h
  · exact absurd rfl h

section
variable {sch : Scheme} {w : Word} {dec : Nat → Bits × Bool} (hd : s.HamOk) (hdem : s.DemReady sch)
include hd hdem

/-- The final decode repeats one of the scan. -/
theorem syncEnds_of_scan {v : List Nat} (hv : v ≠ []) (hlt : ∀ o ∈ v, o < s.sps) (hlen : v.length ≤ s.sps)
    (hscan : scanOffsets (decodeAt s.env s sch w s.samples) s.syncX (List.range s.sps) [] = .ok v)
    (hmean : decodeAt s.env s sch w s.samples (meanOffset v) = .ok (dec (meanOffset v))) :
    SyncEnds s ((Ending.of (syncPlan s.env sch w s)).on s) (dec (meanOffset v)) (meanOffset v) v.length := by
  rw [syncPlan_of_scan hd hdem hv hscan hmean]
  exact syncEnds_planSync hdem.1 _ (Nat.lt_trans (meanOffset_lt hv hlt) (sps_lt s)) (Nat.lt_of_le_of_lt hlen (sps_lt s))

/-- The source rule: the middle of the first run is decoded, whatever lies beyond the run's end (R162, R164). -/
theorem syncEnds_of_firstRun {a b : Nat} (hx : s.syncX = false) (hab : a ≤ b) (hb : b < s.sps)
    (hdec : ∀ o < s.sps, o ≤ b + 1 → decodeAt s.env s sch w s.samples o = .ok (dec o))
    (hbefore : ∀ o < a, (dec o).1 = []) (hrun : ∀ o, a ≤ o → o ≤ b → (dec o).1 ≠ [])
    (hend : b + 1 < s.sps → (dec (b + 1)).1 = []) :
    SyncEnds s ((Ending.of (syncPlan s.env sch w s)).on s) (dec ((a + b) / 2)) ((a + b) / 2) (b - a + 1) := by
  obtain ⟨k, rfl⟩ := Nat.exists_eq_add_of_le hab
  have hscan := scanOffsets_range_of_firstRun hb hdec hbefore hrun hend
  rw [← hx] at hscan
  have h := syncEnds_of_scan (dec := dec) hd hdem (by simp) (fun o ho => by rw [List.mem_range'_1] at ho; omega)
    (by rw [List.length_range']; omega) hscan (by rw [meanOffset_range']; exact hdec _ (by omega) (by omega))
  rw [meanOffset_range', List.length_range'] at h
  rwa [Nat.add_sub_cancel_left]

/-- The search over the decodes at all offsets. -/
theorem syncResult_of_decodes (hdec : ∀ o < s.sps, decodeAt s.env s sch w s.samples o = .ok (dec o))
    (hfound : ∀ o, (dec o).1 ≠ [] → (dec o).2 = true) :
    SyncResult s ((Ending.of (syncPlan s.env sch w s)).on s) s.sps dec := by
  refine ⟨fun hnone => ?_, fun hx a b hab hb hbefore hrun hend => ⟨?_, ?_⟩, fun hx v hv hne => ?_⟩
  · have hscan := scanOffsets_range (exhaustive := s.syncX) hdec
      (.inr fun a b hab hb ha => absurd (hnone a (Nat.lt_trans hab hb)) ha)
    rw [validBelow_eq_nil_iff.2 hnone] at hscan
    rw [syncPlan_of_scan_nil hd hdem hscan]
    exact syncEnds_planSync hdem.1 _ (by decide) (by decide)
  · exact syncEnds_of_firstRun hd hdem hx hab hb (fun o ho _ => hdec o ho) hbefore hrun hend
  · exact hfound _ (hrun _ (by omega) (by omega))
  · subst hv
    have hlt : ∀ o ∈ validBelow dec s.sps, o < s.sps := fun o ho => (mem_validBelow.1 ho).1
    have hlen : (validBelow dec s.sps).length ≤ s.sps :=
      (List.length_filter_le _ _).trans_eq List.length_range
    exact syncEnds_of_scan hd hdem hne hlt hlen (scanOffsets_range hdec (.inl hx)) (hdec _ (meanOffset_lt hne hlt))

end

/-- A search whose demodulation answers bits at every offset is the one over what stripping the frame leaves of them. -/
theorem exec_of_syncPlan {i : Instr} {sch : Scheme} {w : Word} {bits : Nat → Bits} (hr : i ≠ .reset) (hc : i ≠ .clrErr)
    (hin : Instr.input i = some .samp) (hplan : Instr.plan s.env s i = syncPlan s.env sch w s) (hd : s.HamOk)
    (hdem : s.DemReady sch) (hbits : ∀ o < s.sps, demodulate s.env s sch w s.samples o = .ok (bits o)) :
    ∃ t, exec i s = .next t ∧ SyncResult s t s.sps (fun o => unwrapFrame s.hamDSize (bits o)) := by
  refine ⟨_, exec_eq_plan_on hr hc hdem.1.1 (fits_of_input hin hdem.2.1), ?_⟩
  rw [hplan]
  exact syncResult_of_decodes hd hdem (fun o ho => decodeAt_of_ok (hbits o ho)) fun _ => found_of_unwrapFrame_ne_nil

/-- Settles O50: in these two schemes the demodulation answers bits at every offset. -/
theorem syncSearchResult : Obligations.SyncSearchResult := by
  unfold Obligations.SyncSearchResult
  intro s hd
  exact ⟨fun hdem => exec_of_syncPlan (by decide) (by decide) rfl rfl hd hdem fun _ _ => rfl,
    fun hdem => exec_of_syncPlan (by decide) (by decide) rfl rfl hd hdem fun _ _ => rfl⟩

/-- Where the codec answers bits, they are decoded. -/
theorem decodeAt_tb_of_isSome {w : Word} {wv : List F32} {off : Nat}
    (h : (Config.tbDem wv s.rate.toNat s.symRate.toNat off).isSome = true) :
    decodeAt s.env s .tb w wv off =
      .ok (unwrapFrame s.hamDSize ((Config.tbDem wv s.rate.toNat s.symRate.toNat off).getD [])) := by
  obtain ⟨b, hb⟩ := Option.isSome_iff_exists.1 h
  rw [decodeAt_of_ok (demodulate_tb_of_some hb), hb, Option.getD_some]

/-- Settles O51: the search over the codec's answers, and the first answer asked for that is no bit sequence. -/
theorem toneBlockSyncResult : Obligations.ToneBlockSyncResult := by
  unfold Obligations.ToneBlockSyncResult
  intro s hd hdem
  refine ⟨_, exec_eq_plan_on (i := .tbSync) (by decide) (by decide) hdem.1.1 (fits_of_input rfl hdem.2.1), ?_⟩
  refine ⟨fun hall => ?_, fun hx a b hab hb hanswers hbefore hrun hend => ⟨?_, ?_⟩, fun o ho hnone hanswers hgo => ?_⟩
  · exact syncResult_of_decodes hd hdem (fun o ho => decodeAt_tb_of_isSome (hall o ho))
      fun _ => found_of_unwrapFrame_ne_nil
  · exact syncEnds_of_firstRun hd hdem hx hab (Nat.lt_of_succ_lt hb)
      (fun o _ hle => decodeAt_tb_of_isSome (hanswers o hle)) hbefore hrun fun _ => hend
  · exact found_of_unwrapFrame_ne_nil (hrun _ (by omega) (by omega))
  · have hscan := scanOffsets_range_of_error ho (fun j hj => decodeAt_tb_of_isSome (hanswers j hj)) hgo
      (decodeAt_of_error (w := encode .tbSync) (demodulate_tb_of_none hnone))
    have hplan : Instr.plan s.env s .tbSync = _ := syncPlan_of_scan_error hd hdem hscan
    rw [hplan]
    rfl

end Sys2Proof.Machine
end

section
/-!
SUPPORT. The system commands `NOP`, `RESET` and `CLRERR`, and the reset input (47_noise_and_system.md R178 to R180;
70_reset_and_hazards.md R210 to R212).
-/

namespace Sys2Proof.Machine

/-- Settles O9: with no fault pending the command runs and completes with no flag set, else it is refused. -/
theorem nopOnlyCompletes : Obligations.NopOnlyCompletes := by
  unfold Obligations.NopOnlyCompletes
  intro s
  refine ⟨fun h => ?_, fun h => ?_⟩
  · exact congrArg Host.Outcome.next (State.run_none _ h)
  · exact congrArg Host.Outcome.next (State.run_of_err _ _ h)

/-- Settles O11: the command ends as cleared, and issue and completion rewrite the rest of `STATUS`. -/
theorem clrErrClearsFault : Obligations.ClrErrClearsFault := by
  unfold Obligations.ClrErrClearsFault
  intro s
  exact exec_eq_ending (by decide) s

/-- The reset input is admitted while a command executes too (20_memory.md R47), and does what `RESET` does. -/
theorem State.access_hardReset (s : State) : s.access .hardReset = .next s.restart := by
  unfold State.access
  cases s.status.busy <;> rfl

/-- After reset every register reads 0, but `CAPS` reads what the implementation has (10_state.md R23, R35). -/
theorem State.readReg_restart (s : State) (off : Nat) : s.restart.readReg off = if off = 0x0C then s.caps else 0 := by
  unfold State.readReg
  split
  case h_1 => exact (by decide : Status.clear.word = 0)
  case h_4 => exact (by decide : (0 : Word) &&& cfgMask = 0)
  case h_24 => exact (if_neg ‹off = 0x0C → False›).symm
  all_goals rfl

/-- Settles O10: `RESET` and the reset input are `restart`, whose registers are those of the block after reset and whose
buffers hold no element, so that each reads as the free values of a new epoch. -/
theorem resetClearsEveryRegister : Obligations.ResetClearsEveryRegister := by
  unfold Obligations.ResetClearsEveryRegister
  intro s
  exact ⟨s.restart, rfl, s.access_hardReset, s.readReg_restart, rfl, rfl, fun _ => rfl, fun _ => rfl, fun _ => rfl,
    s.restart_toBlock, ⟨rfl, rfl⟩, rfl⟩

end Sys2Proof.Machine
end

section
/-!
SUPPORT. The noise injector and its command `NOISE.ADD` (47_noise_and_system.md R170 to R174): what one noisy sample is
under the laws of `NUMERICS`, and what the command leaves, sample by sample.
-/

namespace Sys2Proof.Machine

/-! ## Clamping -/

section
variable {D : Type} {X : RealOps D} {real : D → ℝ} {store : ℝ → F32} (hX : X.Lawful real store)
include hX

/-- A number between the two others is left as it is. -/
theorem clampTo_of_mem {lo hi r : D} (hlow : real lo ≤ real r) (hhigh : real r ≤ real hi) : clampTo X lo hi r = r := by
  have hnotLow : ¬ X.gt lo r = true := fun h => hlow.not_gt ((hX.gt_iff lo r).1 h)
  have hnotHigh : ¬ X.gt r hi = true := fun h => hhigh.not_gt ((hX.gt_iff r hi).1 h)
  rw [clampTo, if_neg hnotLow, if_neg hnotHigh]

/-- `clamp(r)`: -1 below -1, 1 above 1, else the number (R170). -/
theorem real_clampTo_negOne_one (d : D) : real (clampTo X (X.val F32.negOne) (X.val F32.one) d) =
    if real d < -1 then -1 else if 1 < real d then 1 else real d := by
  have hlow : real (X.val F32.negOne) = -1 := by
    rw [hX.val_real _ (by decide), F32.rat_negOne, Rat.cast_neg, Rat.cast_one]
  have hhigh : real (X.val F32.one) = 1 := by
    rw [hX.val_real _ (by decide), F32.rat_one, Rat.cast_one]
  rw [real_clampTo hX _ _ _ (by rw [hlow, hhigh]; norm_num), hlow, hhigh]
  split_ifs with hbelow habove
  · exact max_eq_left ((min_le_right _ _).trans hbelow.le)
  · rw [min_eq_left habove.le, max_eq_right (by norm_num)]
  · rw [min_eq_right (not_lt.1 habove), max_eq_right (not_lt.1 hbelow)]

end

/-- Clamping a number that is moved by `d` moves one already in the interval by at most `|d|` (R174). -/
theorem abs_clamp_add_sub_le {lo hi x : ℝ} (hlow : lo ≤ x) (hhigh : x ≤ hi) (d : ℝ) :
    |max lo (min hi (x + d)) - x| ≤ |d| := by
  have hmoved := Set.abs_projIcc_sub_projIcc (hlow.trans hhigh) (c := x + d) (d := x)
  rwa [Set.coe_projIcc, Set.projIcc_of_mem _ ⟨hlow, hhigh⟩, add_sub_cancel_left] at hmoved

/-- A sample's value lies in [-1, 1] (20_memory.md R54). -/
theorem F32.abs_rat_le_one {x : F32} (h : F32.isSample x = true) : |F32.rat x| ≤ 1 := by
  rw [F32.isSample, Bool.and_eq_true, decide_eq_true_eq] at h
  obtain ⟨-, hnatAbs⟩ := h
  have hunits : |F32.units x| ≤ 2 ^ 149 := by
    rw [Int.abs_eq_natAbs]
    exact_mod_cast hnatAbs
  rw [F32.rat_eq_units_div, abs_div, abs_of_pos (by positivity : (0 : ℚ) < 2 ^ 149), div_le_one (by positivity)]
  exact_mod_cast hunits

/-! ## One draw and one noisy sample -/

section
variable (N : Numerics) {level : F32} (h : F32.isNonneg level = true)
include h

/-- A draw in uniform mode lies within the level (R172). -/
theorem abs_drawReal_drawIn_le (d : N.Draw) : |N.drawReal (drawIn N.reals false level d)| ≤ (F32.rat level : ℝ) := by
  have hlevel : (0 : ℝ) ≤ F32.rat level := by exact_mod_cast ((F32.isNonneg_iff level).1 h).2
  rw [drawReal_drawIn N false h, abs_le]
  exact ⟨le_max_left _ _, max_le (by linarith) (min_le_left _ _)⟩

/-- A number within the level is used as it is in uniform mode (R172). -/
theorem drawIn_of_mem {d : N.Draw} (hlow : -(F32.rat level : ℝ) ≤ N.drawReal d)
    (hhigh : N.drawReal d ≤ (F32.rat level : ℝ)) : drawIn N.reals false level d = d := by
  have hX := reals_lawful N
  have hfinite := ((F32.isNonneg_iff level).1 h).1
  refine clampTo_of_mem hX ?_ ?_
  · rwa [hX.val_real _ ((F32.isFinite_negate level).trans hfinite), F32.rat_negate, Rat.cast_neg]
  · rwa [hX.val_real _ hfinite]

end

/-- Settles O53: each part is a fact about clamping, under the laws of the numbers that draws are taken from. -/
theorem noisySampleIsClampedSum : Obligations.NoisySampleIsClampedSum := by
  unfold Obligations.NoisySampleIsClampedSum
  intro N level d h
  have hX := reals_lawful N
  have hdraw := abs_drawReal_drawIn_le N h d
  refine ⟨abs_le.1 hdraw, drawIn_of_mem N h, rfl, real_clampTo_negOne_one hX d, fun gauss x hx => ⟨?_, ?_⟩,
    fun x hx => ?_⟩
  · exact noisySample_eq_toF32 N gauss level hx d
  · exact isSample_noisySample N.lawful.choose_spec.1 hX gauss level x d
  · have hrange : |(F32.rat x : ℝ)| ≤ 1 := by exact_mod_cast F32.abs_rat_le_one hx
    obtain ⟨hlow, hhigh⟩ := abs_le.1 hrange
    exact (abs_clamp_add_sub_le hlow hhigh _).trans hdraw

/-! ## The command -/

variable {R D : Type} {s : State}

theorem noiseAddPlan_of_bad_level (E : Env R D) (h : ¬ s.LevelOk) :
    noiseAddPlan E s = .error (Raise.of .config 0x4C) := by
  rw [noiseAddPlan, State.checkLevel, Bool.eq_false_iff.2 h]
  rfl

theorem noiseAddPlan_of_ok (E : Env R D) (h : s.LevelOk) (hsamples : s.SamplesOk) : noiseAddPlan E s = .ok {
    samples := some (s.noised E s.samples), taken := drawsTaken s.level s.sampLen.toNat
    flags := { empty := decide (s.sampLen.toNat = 0) } } := by
  rw [noiseAddPlan, State.checkLevel, h, State.checkedSamples_of_ok hsamples, need_true, ok_bind, ok_bind,
    Flags.written_eq, State.length_samples]

/-- A noisy waveform that is stored reads, sample by sample, as `noiseOn` says (R170, R173). -/
theorem sampleAt_completed_noised (hlevel : s.LevelOk) {w : List F32} (hw : AllSamples w) (n : Nat) (f : Flags)
    {k : Nat} {x : F32} (hx : w[k]? = some x) :
    ((Ending.completed { samples := some (s.noised s.env w), taken := n, flags := f }).on s).sampleAt k =
      s.noiseOn k x := by
  have hget := getElem?_noised hlevel hw k
  rw [hx, Option.map_some] at hget
  obtain ⟨hk, hval⟩ := List.getElem?_eq_some_iff.1 hget
  exact (Buf.read_put_lt _ _ _ _ k hk).trans hval

theorem State.getElem?_samples {k : Nat} (h : k < s.sampLen.toNat) : s.samples[k]? = some (s.sampleAt k) := by
  simp [State.samples, h]

/-- Settles O52: the plan is to store the buffer's samples again, each with its noise. -/
theorem noiseAddResult : Obligations.NoiseAddResult := by
  unfold Obligations.NoiseAddResult
  intro s hready hfits
  have hin := fits_of_input (i := .noiseAdd) rfl hfits
  refine ⟨fun hlevel => ?_, fun hlevel hsamples => ?_⟩
  · exact exec_of_plan_error (by decide) (by decide) hready.1 hin (noiseAddPlan_of_bad_level s.env hlevel)
  · have hlen : (s.noised s.env s.samples).length = s.sampLen.toNat := by rw [length_noised, State.length_samples]
    refine ⟨_, exec_of_plan_ok (by decide) (by decide) hready.1 hin (noiseAddPlan_of_ok s.env hlevel hsamples),
      ?_, fun k hk => ?_, ⟨rfl, rfl⟩, ?_⟩
    · show BitVec.ofNat 32 (s.noised s.env s.samples).length = s.sampLen
      rw [hlen, BitVec.ofNat_toNat, BitVec.setWidth_eq]
    · exact sampleAt_completed_noised hlevel (s.samples_ok_iff.2 hsamples) _ _ (State.getElem?_samples hk)
    · exact writesOnlySamples_completed s _ _ (hlen.trans_lt s.sampLen.isLt)

end Sys2Proof.Machine
end

section
/-!
SUPPORT. Commands and faults (60_exceptions.md R187, R195 to R197): a command completes or leaves the precise fault
state, it raises only what its row of the fault table has, and while a fault is pending it is refused.
-/

namespace Sys2Proof.Machine

/-! ## How a command ends (R195, R196) -/

theorem Ending.raised_on (r : Raise) (s : State) : (Ending.raised r).on s = s.faulted r.code r.info.toNat := by
  rw [State.faulted, BitVec.ofNat_toNat, BitVec.setWidth_eq]
  rfl

/-- With no fault pending a command but `RESET` completes, or leaves the fault state. -/
theorem EndsIn.completes_or_faulted {i : Instr} {s : State} {e : Ending} (he : EndsIn i s e)
    (herr : s.status.err = false) :
    ((e.on s).status.done = true ∧ (e.on s).status.err = false ∧ (e.on s).status.busy = false) ∨
      ∃ code info, code ≠ .none ∧ e.on s = s.faulted code info := by
  cases he with
  | refused _ hpending => exact absurd (herr.symm.trans hpending) (by decide)
  | raised _ _ hcode => exact .inr ⟨_, _, hcode, Ending.raised_on _ s⟩
  | cleared _ => exact .inl ⟨rfl, rfl, rfl⟩
  | completed _ _ _ => exact .inl ⟨rfl, herr, rfl⟩

/-- Settles O57: every command but `RESET` is its ending, and no ending leaves anything else. -/
theorem everyCommandEndsPrecisely : Obligations.EveryCommandEndsPrecisely := by
  unfold Obligations.EveryCommandEndsPrecisely
  intro i s
  by_cases hi : i = .reset
  · subst hi
    exact ⟨s.restart, rfl, fun _ hne => absurd rfl hne⟩
  · exact ⟨_, exec_eq_ending hi s, fun herr _ => (endsIn_ending s i).completes_or_faulted herr⟩

/-! ## What a command's row of the fault table has (R187) -/

/-- Every raise of `x` is one the row of command `i` has. -/
def RaisesOnly {α : Type} (i : Instr) (x : Except Raise α) : Prop :=
  ∀ r, x = .error r → Instr.mayRaise i r.code r.info

section
variable {α β : Type} {i : Instr}

theorem raisesOnly_ok (a : α) : RaisesOnly i (.ok a) := nofun

theorem raisesOnly_error {r : Raise} (h : Instr.mayRaise i r.code r.info) :
    RaisesOnly i (.error r : Except Raise α) := by
  intro q hq
  cases hq
  exact h

theorem RaisesOnly.bind {x : Except Raise α} {f : α → Except Raise β} (hx : RaisesOnly i x)
    (hf : ∀ a, RaisesOnly i (f a)) : RaisesOnly i (x >>= f) := by
  cases x with
  | error r => exact raisesOnly_error (hx r rfl)
  | ok a => exact hf a

theorem raisesOnly_need (ok : Bool) {code : ErrCode} {info : Nat}
    (h : Instr.mayRaise i code (BitVec.ofNat 32 info)) : RaisesOnly i (need ok code info) := by
  cases ok with
  | false => exact raisesOnly_error h
  | true => exact raisesOnly_ok ()

theorem raisesOnly_firstFailure {l : List (Except Raise Unit)} (h : ∀ c ∈ l, RaisesOnly i c) :
    RaisesOnly i (firstFailure l) := by
  induction l with
  | nil => exact raisesOnly_ok ()
  | cons c rest ih =>
    rw [firstFailure_cons]
    exact (h c List.mem_cons_self).bind fun _ => ih fun d hd => h d (List.mem_cons_of_mem _ hd)

/-! ### The detail words -/

/-- The table's detail words are offsets of registers, and fit a word. -/
theorem Instr.lt_of_mem_infos (i : Instr) :
    ∀ n ∈ Instr.configInfos i ++ Instr.emptyInfos i ++ Instr.capacityInfos i, n < 2 ^ 32 := by
  cases i <;> decide

theorem Instr.mayRaise_config {n : Nat} (h : n ∈ Instr.configInfos i) :
    Instr.mayRaise i .config (BitVec.ofNat 32 n) := by
  have hn := Instr.lt_of_mem_infos i n (by simp [h])
  rwa [Instr.mayRaise, toNat_ofNat_of_lt hn]

theorem Instr.mayRaise_emptyInput {n : Nat} (h : n ∈ Instr.emptyInfos i) :
    Instr.mayRaise i .emptyInput (BitVec.ofNat 32 n) := by
  have hn := Instr.lt_of_mem_infos i n (by simp [h])
  rwa [Instr.mayRaise, toNat_ofNat_of_lt hn]

theorem Instr.mayRaise_length (h : Instr.raisesLength i = true) (info : Word) : Instr.mayRaise i .length info := h

/-- A buffer that the command reads or writes is one whose length its `ERR_CAPACITY` can name. -/
theorem Instr.mayRaise_capacity {b : BufId} (h : Instr.input i = some b ∨ Instr.output i = some b) :
    Instr.mayRaise i .capacity (BitVec.ofNat 32 (bufLenOffset b)) := by
  have hmem : bufLenOffset b ∈ Instr.capacityInfos i := by
    revert h
    cases i <;> cases b <;> decide
  have hn := Instr.lt_of_mem_infos i _ (List.mem_append_right _ hmem)
  rwa [Instr.mayRaise, toNat_ofNat_of_lt hn]

/-! ### The shared checks and outputs -/

variable {R D : Type} (s : State)

theorem raisesOnly_checkCapacity {b : BufId} (h : Instr.input i = some b ∨ Instr.output i = some b) (n : Nat) :
    RaisesOnly i (s.checkCapacity b n) := by
  unfold State.checkCapacity
  split
  · exact raisesOnly_error (Instr.mayRaise_capacity h)
  · exact raisesOnly_ok ()

theorem raisesOnly_checkInput (i : Instr) : RaisesOnly i (s.checkInput i) := by
  unfold State.checkInput
  cases h : Instr.input i with
  | none => exact raisesOnly_ok ()
  | some b => exact raisesOnly_checkCapacity s (.inl h) _

theorem raisesOnly_planBytes (h : Instr.output i = some .byte) (v : List Byte) (f : Flags) :
    RaisesOnly i (s.planBytes v f) :=
  (raisesOnly_checkCapacity s (.inr h) _).bind fun _ => raisesOnly_ok _

theorem raisesOnly_planBits (h : Instr.output i = some .bit) (v : Bits) (f : Flags) : RaisesOnly i (s.planBits v f) :=
  (raisesOnly_checkCapacity s (.inr h) _).bind fun _ => raisesOnly_ok _

theorem raisesOnly_planSync (h : Instr.output i = some .bit) (p : Bits × Bool) (m n : Nat) :
    RaisesOnly i (s.planSync p m n) :=
  (raisesOnly_checkCapacity s (.inr h) _).bind fun _ => raisesOnly_ok _

theorem raisesOnly_planWave (E : Env R D) (h : Instr.output i = some .samp) (n : Nat) (w : List F32) :
    RaisesOnly i (s.planWave E n w) :=
  (raisesOnly_checkCapacity s (.inr h) _).bind fun _ => raisesOnly_ok _

theorem raisesOnly_checkHam (h : 0x10 ∈ Instr.configInfos i) : RaisesOnly i s.checkHam :=
  raisesOnly_need _ (Instr.mayRaise_config h)

theorem raisesOnly_checkedSamples (h : Instr.raisesSample i = true) : RaisesOnly i s.checkedSamples := by
  unfold State.checkedSamples
  cases firstBadSample 0 s.samples with
  | none => exact raisesOnly_ok _
  | some k => exact raisesOnly_error h

theorem raisesOnly_waveform (h : Instr.raisesSample i = true) (hempty : 0x68 ∈ Instr.emptyInfos i) :
    RaisesOnly i s.waveform := by
  unfold State.waveform
  cases hsamples : s.checkedSamples with
  | error r => exact raisesOnly_error (raisesOnly_checkedSamples s h r hsamples)
  | ok wv =>
    dsimp only
    split
    · exact raisesOnly_error (Instr.mayRaise_emptyInput hempty)
    · exact raisesOnly_ok wv

/-! ### The scheme commands -/

/-- A command of the ToneBlock scheme raises `ERR_EXTERNAL` with its own word. -/
theorem Instr.mayRaise_external {role : Role} (hi : Instr.scheme i = some (.tb, role)) :
    Instr.mayRaise i .external (encode i) :=
  ⟨by rw [Instr.raisesExternal, hi], rfl⟩

section
variable {sch : Scheme} {role : Role} (hi : Instr.scheme i = some (sch, role))
include hi

/-- The checks of `checkScheme` but that of the codec are of registers, which the row names. -/
theorem Instr.mem_configInfos_of_schemeTable {c : SchemeCheck}
    (hc : c ∈ s.schemeStep23 ++ (s.schemeStep4 sch ++ s.schemeStep56 role)) :
    c.2.1 = .config ∧ c.2.2 ∈ Instr.configInfos i := by
  simp only [Instr.configInfos, hi]
  revert c
  cases sch <;> cases role <;> simp [State.schemeStep23, State.schemeStep4, State.schemeStep56]

theorem raisesOnly_checkScheme : RaisesOnly i (s.checkScheme sch role (encode i)) := by
  rw [checkScheme_eq_table]
  refine raisesOnly_firstFailure (List.forall_mem_map.2 fun c hc => raisesOnly_need _ ?_)
  rw [State.schemeTable, List.append_assoc, List.append_assoc, List.mem_append] at hc
  rcases hc with hc | hc
  · cases sch with
    | tb =>
      rw [List.mem_singleton.1 hc]
      show Instr.mayRaise i .external (BitVec.ofNat 32 (encode i).toNat)
      rw [BitVec.ofNat_toNat, BitVec.setWidth_eq]
      exact Instr.mayRaise_external hi
    | fsk | qpsk => cases hc
  · obtain ⟨hcode, hinfo⟩ := Instr.mem_configInfos_of_schemeTable s hi hc
    rw [hcode]
    exact Instr.mayRaise_config hinfo

theorem raisesOnly_demodulate (E : Env R D) (wv : List F32) (off : Nat) :
    RaisesOnly i (demodulate E s sch (encode i) wv off) := by
  cases sch with
  | fsk | qpsk => exact raisesOnly_ok _
  | tb =>
    unfold demodulate
    cases E.tbDem wv s.rate.toNat s.symRate.toNat off with
    | none => exact raisesOnly_error (Instr.mayRaise_external hi)
    | some b => exact raisesOnly_ok b

theorem raisesOnly_decodeAt (E : Env R D) (wv : List F32) (off : Nat) :
    RaisesOnly i (decodeAt E s sch (encode i) wv off) := by
  unfold decodeAt
  cases hdem : demodulate E s sch (encode i) wv off with
  | error r => exact raisesOnly_error (raisesOnly_demodulate s hi E wv off r hdem)
  | ok b => exact raisesOnly_ok _

/-- A receiving command reads `SAMPBUF`, and raises `ERR_SAMPLE` and `ERR_EMPTY_INPUT` of it. -/
theorem raisesOnly_waveform_of_scheme (hrole : role ≠ .modulate) : RaisesOnly i s.waveform := by
  cases i with
  | fskDem | qpskDem | tbDem | fskDecode | qpskDecode | tbDecode | fskSync | qpskSync | tbSync =>
    exact raisesOnly_waveform s rfl (by decide)
  | fskMod | qpskMod | tbMod =>
    cases hi
    exact absurd rfl hrole
  | _ => cases hi

end

theorem raisesOnly_scanOffsets {dec : Nat → Except Raise (Bits × Bool)} (hdec : ∀ o, RaisesOnly i (dec o))
    (exhaustive : Bool) (l valid : List Nat) : RaisesOnly i (scanOffsets dec exhaustive l valid) := by
  induction l generalizing valid with
  | nil => exact raisesOnly_ok valid
  | cons o rest ih =>
    unfold scanOffsets
    cases ho : dec o with
    | error r => exact raisesOnly_error (hdec o r ho)
    | ok p =>
      dsimp only
      split
      · exact ih _
      · split
        · exact raisesOnly_ok valid
        · exact ih valid

/-! ### The plans -/

theorem raisesOnly_hamDecPlan : RaisesOnly .hamDec (hamDecPlan s) :=
  (raisesOnly_checkHam s (by decide)).bind fun _ => by
    cases hamDec s.hamDSize s.bits <;> exact raisesOnly_planBits s rfl _ _

theorem raisesOnly_hamEncPlan : RaisesOnly .hamEnc (hamEncPlan s) := by
  refine RaisesOnly.bind (raisesOnly_firstFailure fun c hc => ?_) fun _ => raisesOnly_planBits s rfl _ _
  rcases List.mem_pair.1 hc with rfl | rfl
  · exact raisesOnly_checkHam s (by decide)
  · exact raisesOnly_need _ (Instr.mayRaise_length rfl _)

theorem raisesOnly_goertzelPlan (E : Env R D) : RaisesOnly .goertzel (goertzelPlan E s) := by
  refine RaisesOnly.bind (raisesOnly_firstFailure fun c hc => ?_) fun _ =>
    (raisesOnly_waveform s rfl (by decide)).bind fun _ => raisesOnly_ok _
  rcases List.mem_pair.1 hc with rfl | rfl
  · exact raisesOnly_need _ (Instr.mayRaise_config (by decide))
  · exact raisesOnly_need _ (Instr.mayRaise_config (by decide))

theorem raisesOnly_noiseAddPlan (E : Env R D) : RaisesOnly .noiseAdd (noiseAddPlan E s) :=
  (raisesOnly_need _ (Instr.mayRaise_config (by decide))).bind fun _ =>
    (raisesOnly_checkedSamples s rfl).bind fun _ => raisesOnly_ok _

section
variable (E : Env R D) {sch : Scheme}

theorem raisesOnly_demPlan (hi : Instr.scheme i = some (sch, .demodulate)) (ho : Instr.output i = some .bit) :
    RaisesOnly i (demPlan E sch (encode i) s) :=
  (raisesOnly_checkScheme s hi).bind fun _ => (raisesOnly_waveform_of_scheme s hi (by decide)).bind fun _ =>
    (raisesOnly_demodulate s hi E _ _).bind fun _ => raisesOnly_planBits s ho _ _

theorem raisesOnly_decodePlan (hi : Instr.scheme i = some (sch, .framed)) (ho : Instr.output i = some .bit) :
    RaisesOnly i (decodePlan E sch (encode i) s) :=
  (raisesOnly_checkScheme s hi).bind fun _ => (raisesOnly_waveform_of_scheme s hi (by decide)).bind fun _ =>
    (raisesOnly_decodeAt s hi E _ _).bind fun _ => raisesOnly_planBits s ho _ _

theorem raisesOnly_syncPlan (hi : Instr.scheme i = some (sch, .framed)) (ho : Instr.output i = some .bit) :
    RaisesOnly i (syncPlan E sch (encode i) s) := by
  refine (raisesOnly_checkScheme s hi).bind fun _ => (raisesOnly_waveform_of_scheme s hi (by decide)).bind fun wv => ?_
  refine (raisesOnly_scanOffsets (fun o => raisesOnly_decodeAt s hi E wv o) _ _ _).bind fun valid => ?_
  cases valid with
  | nil => exact raisesOnly_planSync s ho _ _ _
  | cons v rest => exact (raisesOnly_decodeAt s hi E wv _).bind fun p => raisesOnly_planSync s ho p _ _

theorem raisesOnly_validWave (h : Instr.mayRaise i .external (encode i)) (x : Option (List F32)) :
    RaisesOnly i (validWave (encode i) x) := by
  cases x with
  | none => exact raisesOnly_error h
  | some l =>
    unfold validWave
    dsimp only
    split
    · exact raisesOnly_ok l
    · exact raisesOnly_error h

/-- Of the encoders, only that of pairs of bits asks for an even number of them. -/
theorem raisesOnly_modPlan (hi : Instr.scheme i = some (sch, .modulate)) (ho : Instr.output i = some .samp)
    (hempty : 0x64 ∈ Instr.emptyInfos i) (hlen : sch = .qpsk → Instr.raisesLength i = true) :
    RaisesOnly i (modPlan E sch (encode i) s) := by
  refine (raisesOnly_checkScheme s hi).bind fun _ =>
    (raisesOnly_need _ (Instr.mayRaise_emptyInput hempty)).bind fun _ => ?_
  cases sch with
  | fsk => exact raisesOnly_planWave s E ho _ _
  | qpsk => exact (raisesOnly_need _ (Instr.mayRaise_length (hlen rfl) _)).bind fun _ => raisesOnly_planWave s E ho _ _
  | tb => exact (raisesOnly_validWave (Instr.mayRaise_external hi) _).bind fun _ => raisesOnly_planWave s E ho _ _

end

theorem raisesOnly_plan (E : Env R D) (i : Instr) : RaisesOnly i (Instr.plan E s i) := by
  cases i with
  | nop | reset | clrErr => exact raisesOnly_ok _
  | bytes2Bits => exact raisesOnly_planBits s rfl _ _
  | bits2BytesT | rsDec => exact raisesOnly_planBytes s rfl _ _
  | bits2BytesS | rsEnc =>
    exact (raisesOnly_need _ (Instr.mayRaise_length rfl _)).bind fun _ => raisesOnly_planBytes s rfl _ _
  | hamEnc => exact raisesOnly_hamEncPlan s
  | hamDec => exact raisesOnly_hamDecPlan s
  | frmMarkS | frmMarkE | frmWrap | frmStripL | frmStripT | frmUnwrap =>
    exact (raisesOnly_checkHam s (by decide)).bind fun _ => raisesOnly_planBits s rfl _ _
  | fskMod | qpskMod | tbMod => exact raisesOnly_modPlan s E rfl rfl (by decide) (by decide)
  | fskDem | qpskDem | tbDem => exact raisesOnly_demPlan s E rfl rfl
  | fskDecode | qpskDecode | tbDecode => exact raisesOnly_decodePlan s E rfl rfl
  | goertzel => exact raisesOnly_goertzelPlan s E
  | fskSync | qpskSync | tbSync => exact raisesOnly_syncPlan s E rfl rfl
  | noiseAdd => exact raisesOnly_noiseAddPlan s E

/-- A fault a command ends in is one of its input's length or of its plan. -/
theorem mayRaise_of_ending {r : Raise} (h : s.ending i = .raised r) : Instr.mayRaise i r.code r.info := by
  have hall := (raisesOnly_checkInput s i).bind fun _ => raisesOnly_plan s s.env i
  unfold State.ending at h
  split at h
  · cases h
  split at h
  · cases h
  cases hx : s.checkInput i >>= fun _ => Instr.plan s.env s i with
  | error q =>
    rw [hx] at h
    cases h
    exact hall r hx
  | ok p =>
    rw [hx] at h
    cases h

end

/-- Settles O58: with no fault pending only a command that raises ends with `ERR` set. -/
theorem commandsRaiseOnlyTheirFaults : Obligations.CommandsRaiseOnlyTheirFaults := by
  unfold Obligations.CommandsRaiseOnlyTheirFaults
  intro i s t herr ht hfault
  by_cases hi : i = .reset
  · subst hi
    cases ht
    cases hfault
  rw [exec_eq_ending hi] at ht
  cases ht
  cases hend : s.ending i with
  | raised r => exact mayRaise_of_ending s hend
  | refused | completed p =>
    rw [hend] at hfault
    exact absurd (herr.symm.trans hfault) (by decide)
  | cleared =>
    rw [hend] at hfault
    cases hfault

/-! ## While a fault is pending (R197) -/

theorem exec_of_pending {i : Instr} {s : State} (hr : i ≠ .reset) (hc : i ≠ .clrErr) (herr : s.status.err = true) :
    exec i s = .next s := by
  obtain ⟨body, hexec, -⟩ := exec_eq_run hr hc s
  rw [hexec, State.run_of_err _ body herr]

theorem State.illegal_of_pending {s : State} (herr : s.status.err = true) (w : Word) : s.illegal w = s :=
  if_pos herr

/-- Settles O5: commands and illegal words are refused, `RESET` and `CLRERR` run, and no other access looks at `ERR`. -/
theorem pendingFaultRefusesCommands : Obligations.PendingFaultRefusesCommands := by
  unfold Obligations.PendingFaultRefusesCommands
  intro s herr hb
  refine ⟨fun i hr hc => exec_of_pending hr hc herr, fun w hw => ?_, ⟨s.restart, rfl, rfl, rfl⟩,
    ⟨_, exec_eq_ending (by decide) s, rfl, rfl, rfl⟩, fun off w hne halign => ?_, fun off halign => ?_,
    fun _ _ => State.access_of_wf hb rfl, fun _ _ => State.access_of_wf hb rfl,
    fun _ _ => State.access_of_wf hb rfl, fun _ _ => State.access_of_wf hb rfl⟩
  · have hissue : s.access (.writeReg 0 w) = s.issue w := State.access_of_wf hb rfl
    rw [hissue, State.issue_of_ne_encode s hw, State.illegal_of_pending herr]
  · have hwf : (HostAccess.writeReg off w).wf = true := (readReg_wf_iff off).2 (.inr halign)
    exact (State.access_of_wf hb hwf).trans (if_neg hne)
  · exact State.access_of_wf hb ((readReg_wf_iff off).2 (.inr halign))

end Sys2Proof.Machine
end
